-- ==== Sys2Proof/Word.lean ====
section
/-! DEFINITION. The widths of the machine: the 16-bit word of registers, addresses and memory cells
(R6, R9), and the 3-bit register index (R15). -/

namespace Sys2Proof

/-- `Word16` (R9): a register, an address or a memory cell; `+` and `-` wrap modulo 2^16. -/
abbrev Word := BitVec 16

/-- The low or high character of a word, as the console gets it (R90). -/
abbrev Byte := BitVec 8

/-- A register index field (R15): every value 0..7 names a general register. -/
abbrev RegIdx := BitVec 3

end Sys2Proof
end

