-- ==== Sys2Proof/Machine/Bits.lean ====
section
/-! DEFINITION. Bit fields and extensions of words (R8, R10, R11), used by the decoder, the encoder and
the meanings. -/

namespace Sys2Proof.Machine

/-- `w[lo+n-1:lo]` (R8). -/
def field (w : Word) (lo n : Nat) : BitVec n := w.extractLsb' lo n

/-- `w[i]` (R8). -/
def bit (w : Word) (i : Nat) : Bool := w.getLsbD i

/-- `sext_N(v)` (R10). -/
def sext {n : Nat} (v : BitVec n) : Word := v.signExtend 16

/-- `zext_16(v)` (R11). -/
def zext {n : Nat} (v : BitVec n) : Word := v.setWidth 16

/-- The word with `v` as its field from bit `lo` up and every other bit 0; `|||` of such words builds a format
of R50. -/
def put {n : Nat} (v : BitVec n) (lo : Nat) : Word := v.setWidth 16 <<< lo

/-- The `n`-bit field that holds an extended immediate: its low `n` bits. -/
def lowBits (n : Nat) (v : Word) : BitVec n := v.setWidth n

end Sys2Proof.Machine
end

