-- ==== Sys2Proof/Syntax.lean ====
section
/-! DEFINITION. The instruction set: one constructor per row of spec/opcode_table.json (R49, R50).
An immediate is the word the decoder extended it to (R53, R62); `WellFormed` says which words those
are. RTI and RES carry their low twelve bits, which the fault record of R94 holds. -/

namespace Sys2Proof

/-- A decoded instruction. RET is `jmp 7`; GETC, OUT, PUTS, IN, PUTSP and HALT are words of `trap` (R58). -/
inductive Instr where
  /-- ADD, format OPR (R70): `DR <- SR1 + SR2`. -/
  | addReg (dr sr1 sr2 : RegIdx)
  /-- ADD, format OPI (R70): `DR <- SR1 + sext_5(imm5)`. -/
  | addImm (dr sr1 : RegIdx) (imm5 : Word)
  /-- AND, format OPR (R71): `DR <- SR1 & SR2`. -/
  | andReg (dr sr1 sr2 : RegIdx)
  /-- AND, format OPI (R71): `DR <- SR1 & sext_5(imm5)`. -/
  | andImm (dr sr1 : RegIdx) (imm5 : Word)
  /-- NOT (R72): `DR <- ~SR`. -/
  | notReg (dr sr : RegIdx)
  /-- BR (R74): mask bits `n`, `z`, `p` (bits 2, 1, 0 of `nzp`, R52) and `sext_9(PCoffset9)`. -/
  | br (nzp : BitVec 3) (pcOffset9 : Word)
  /-- JMP, and RET when BaseR is 7 (R75). -/
  | jmp (baseR : RegIdx)
  /-- JSR (R76): `sext_11(PCoffset11)`. -/
  | jsr (pcOffset11 : Word)
  /-- JSRR (R77). -/
  | jsrr (baseR : RegIdx)
  /-- LD (R80). -/
  | ld (dr : RegIdx) (pcOffset9 : Word)
  /-- ST (R85). -/
  | st (sr : RegIdx) (pcOffset9 : Word)
  /-- LDR (R82): `sext_6(offset6)`. -/
  | ldr (dr baseR : RegIdx) (offset6 : Word)
  /-- STR (R87). -/
  | str (sr baseR : RegIdx) (offset6 : Word)
  /-- RTI, a reserved opcode (R91), with the unused bits `w[11:0]`. -/
  | rti (unused : BitVec 12)
  /-- LDI (R81). -/
  | ldi (dr : RegIdx) (pcOffset9 : Word)
  /-- STI (R86). -/
  | sti (sr : RegIdx) (pcOffset9 : Word)
  /-- RES, a reserved opcode (R92), with the unused bits `w[11:0]`. -/
  | res (unused : BitVec 12)
  /-- LEA (R83). -/
  | lea (dr : RegIdx) (pcOffset9 : Word)
  /-- TRAP (R88): `zext_16(trapvect8)`. -/
  | trap (trapvect8 : Word)
  deriving DecidableEq, Repr

end Sys2Proof
end

