-- ==== Sys2Proof/WellFormed.lean ====
section
/-! DEFINITION. Which instructions have an encoding: each immediate is the extension of a field of its
width (R53). Register indices and masks need no check, since every value of them is one. -/

namespace Sys2Proof

/-- The word is `sext_n` of an `n`-bit field (R10). -/
def fitsSigned (n : Nat) (v : Word) : Bool := Machine.sext (Machine.lowBits n v) == v

/-- The word is `zext_16` of an `n`-bit field (R11). -/
def fitsUnsigned (n : Nat) (v : Word) : Bool := Machine.zext (Machine.lowBits n v) == v

/-- The table of R53: which field width each immediate comes from. -/
def Instr.wellFormed : Instr → Bool
  | .addReg _ _ _ => true
  | .addImm _ _ imm => fitsSigned 5 imm
  | .andReg _ _ _ => true
  | .andImm _ _ imm => fitsSigned 5 imm
  | .notReg _ _ => true
  | .br _ off => fitsSigned 9 off
  | .jmp _ => true
  | .jsr off => fitsSigned 11 off
  | .jsrr _ => true
  | .ld _ off => fitsSigned 9 off
  | .st _ off => fitsSigned 9 off
  | .ldr _ _ off => fitsSigned 6 off
  | .str _ _ off => fitsSigned 6 off
  | .rti _ => true
  | .ldi _ off => fitsSigned 9 off
  | .sti _ off => fitsSigned 9 off
  | .res _ => true
  | .lea _ off => fitsSigned 9 off
  | .trap vect => fitsUnsigned 8 vect

end Sys2Proof
end

