-- ==== Sys2Proof/Decode.lean ====
section
/-! DEFINITION. The decoder (R48 to R57, R62), total on all 65536 words: no word is undecodable (R55), so
it rejects nothing. After it the encoder, which gives every unused bit the canonical value of R50. -/

namespace Sys2Proof

open Sys2Proof.Machine (field bit sext zext lowBits put)

/-- Decode one instruction word: the opcode `w[15:12]` selects the row (R49); `w[5]` splits ADD and AND,
`w[11]` splits JSR and JSRR (R51). Unused bits are not looked at (R56). No default arm (R64). -/
def decode (w : Word) : Instr :=
  match bit w 15, bit w 14, bit w 13, bit w 12 with
  | false, false, false, false => .br (field w 9 3) (sext (field w 0 9))
  | false, false, false, true =>
    if bit w 5 then .addImm (field w 9 3) (field w 6 3) (sext (field w 0 5))
    else .addReg (field w 9 3) (field w 6 3) (field w 0 3)
  | false, false, true, false => .ld (field w 9 3) (sext (field w 0 9))
  | false, false, true, true => .st (field w 9 3) (sext (field w 0 9))
  | false, true, false, false => if bit w 11 then .jsr (sext (field w 0 11)) else .jsrr (field w 6 3)
  | false, true, false, true =>
    if bit w 5 then .andImm (field w 9 3) (field w 6 3) (sext (field w 0 5))
    else .andReg (field w 9 3) (field w 6 3) (field w 0 3)
  | false, true, true, false => .ldr (field w 9 3) (field w 6 3) (sext (field w 0 6))
  | false, true, true, true => .str (field w 9 3) (field w 6 3) (sext (field w 0 6))
  | true, false, false, false => .rti (field w 0 12)
  | true, false, false, true => .notReg (field w 9 3) (field w 6 3)
  | true, false, true, false => .ldi (field w 9 3) (sext (field w 0 9))
  | true, false, true, true => .sti (field w 9 3) (sext (field w 0 9))
  | true, true, false, false => .jmp (field w 6 3)
  | true, true, false, true => .res (field w 0 12)
  | true, true, true, false => .lea (field w 9 3) (sext (field w 0 9))
  | true, true, true, true => .trap (zext (field w 0 8))

/-- The word of an instruction, from the formats of R50, unused bits at their canonical values (R56). -/
def encode : Instr → Word
  | .addReg dr sr1 sr2 => put 0x1#4 12 ||| put dr 9 ||| put sr1 6 ||| put sr2 0
  | .addImm dr sr1 imm => put 0x1#4 12 ||| put dr 9 ||| put sr1 6 ||| put 1#1 5 ||| put (lowBits 5 imm) 0
  | .andReg dr sr1 sr2 => put 0x5#4 12 ||| put dr 9 ||| put sr1 6 ||| put sr2 0
  | .andImm dr sr1 imm => put 0x5#4 12 ||| put dr 9 ||| put sr1 6 ||| put 1#1 5 ||| put (lowBits 5 imm) 0
  | .notReg dr sr => put 0x9#4 12 ||| put dr 9 ||| put sr 6 ||| put 0x3F#6 0
  | .br nzp off => put 0x0#4 12 ||| put nzp 9 ||| put (lowBits 9 off) 0
  | .jmp baseR => put 0xC#4 12 ||| put baseR 6
  | .jsr off => put 0x4#4 12 ||| put 1#1 11 ||| put (lowBits 11 off) 0
  | .jsrr baseR => put 0x4#4 12 ||| put baseR 6
  | .ld dr off => put 0x2#4 12 ||| put dr 9 ||| put (lowBits 9 off) 0
  | .st sr off => put 0x3#4 12 ||| put sr 9 ||| put (lowBits 9 off) 0
  | .ldr dr baseR off => put 0x6#4 12 ||| put dr 9 ||| put baseR 6 ||| put (lowBits 6 off) 0
  | .str sr baseR off => put 0x7#4 12 ||| put sr 9 ||| put baseR 6 ||| put (lowBits 6 off) 0
  | .rti unused => put 0x8#4 12 ||| put unused 0
  | .ldi dr off => put 0xA#4 12 ||| put dr 9 ||| put (lowBits 9 off) 0
  | .sti sr off => put 0xB#4 12 ||| put sr 9 ||| put (lowBits 9 off) 0
  | .res unused => put 0xD#4 12 ||| put unused 0
  | .lea dr off => put 0xE#4 12 ||| put dr 9 ||| put (lowBits 9 off) 0
  | .trap vect => put 0xF#4 12 ||| put (lowBits 8 vect) 0

/-- The instruction the decoder reads from the bits `w` of an opcode-table row of `nbits` bits. An
instruction is one 16-bit word (R47), so a longer row has none; bits above `nbits` are 0. -/
def decodeTableWord (nbits w : Nat) : Option Instr :=
  if nbits ≤ 16 then some (decode (BitVec.ofNat 16 (w % 2 ^ nbits))) else none

end Sys2Proof
end

