-- ==== Sys2Proof/Config.lean ====
section
/-! DEFINITION. What an implementation fixes (the parameters of R7) as plain data, and the free values: the
keyboard's and the console's answers, what an external trap service does, and when the host stops. Of a free
value nothing can be proved. -/

namespace Sys2Proof

/-- `ILLEGAL_POLICY` (R7, R94): what the reserved opcodes RTI and RES do. -/
inductive IllegalPolicy where
  | inert
  | fault
  deriving DecidableEq, Repr

/-- What a trap service writes to the console (R90). The prompt's and the halt message's text is not in
the spec. -/
inductive ConsoleEvent where
  /-- A character: the low or high half of a word. -/
  | char (c : Byte)
  /-- The prompt of IN. -/
  | prompt
  /-- The echo of the character IN has read. -/
  | echo (k : Word)
  /-- The message of HALT. -/
  | haltMessage
  deriving DecidableEq, Repr

/-- A row of `TRAP_SERVICE` (R7, R89, R90): a service of R90's default table, where `unknown` is the row "any
other", or `external`, a service of which the row fixes only what R90's contract asks of an entry: which general
registers it may write, and whether it may write COND. What an `external` service does is its relation's. -/
inductive Service where
  | getc
  | out
  | puts
  | inp
  | putsp
  | halt
  | unknown
  | external (writes : List RegIdx) (writesCond : Bool)
  deriving DecidableEq, Repr

/-- What a trap service may read of the machine (R90): the general registers, COND and memory. -/
structure ServiceView where
  regs : Vector Word 8
  cond : Word
  mem : List (Nat × Word)
  deriving DecidableEq, Repr

/-- How a trap service ends (R89). -/
inductive ServiceEnd where
  | resume
  | halt
  | never
  deriving DecidableEq, Repr, Inhabited

/-- What an external trap service does in one call (R89, R90). -/
structure ServiceReply where
  /-- The values for the registers its row lets it write. -/
  regs : Vector Word 8
  /-- The flags for COND, where its row lets it write COND; bits 15..3 of COND are always zero (R19). -/
  cond : BitVec 3
  /-- How many characters it has taken from `CONSOLE_IN`. -/
  reads : Nat
  /-- What it has written to the console. -/
  output : List ConsoleEvent
  /-- Whether the engine resumes, halts, or never gets an answer. -/
  outcome : ServiceEnd
  deriving DecidableEq, Repr, Inhabited

/-- The parameters of R7 that the source leaves open, each a named argument of the model. They are
fixed for a machine: no step changes them. -/
structure Config where
  /-- `ENTRY_PC` (R108): the address of the first fetch. -/
  entryPc : Word
  /-- `COND_RESET` (R28): COND after reset. -/
  condReset : Word
  /-- `ILLEGAL_POLICY` (R57). -/
  illegalPolicy : IllegalPolicy
  /-- `TRAP_LINK_R7` (R88): whether TRAP writes the return address to R7. -/
  trapLinkR7 : Bool
  /-- `TRAP_SERVICE` (R90): which vector reaches which service; a vector not listed reaches `unknown`. Any relation
  within R90's contract can stand behind an `external` row. -/
  trapService : List (Word × Service)
  /-- `KBSR_ADDR` (R37): the keyboard status register's address. -/
  kbsrAddr : Word
  /-- `KBDR_ADDR` (R37): the keyboard data register's address. -/
  kbdrAddr : Word
  /-- `KBSR_READY` (R38): what a status read returns when a key is available. -/
  kbsrReady : Word
  deriving DecidableEq, Repr

/-- FREE VALUE (R38, I4): the answer of `KEYBOARD` to poll number `n` where the state gives none:
`none` (no key available) or the key code. Log entry 8. -/
opaque Config.keyboardAnswer : Nat → Option Word

/-- FREE VALUE (R90, I6): the answer of `CONSOLE_IN` to read number `n` where the state gives none:
the character, or `none` (the service waits for ever). Log entry 9. -/
opaque Config.consoleAnswer : Nat → Option Word

/-- FREE VALUE (R7, R89, I5): `TRAP_SERVICE`, the relation behind the `external` rows. For call number `call` of the
run it gives what the service of a vector does, from what it may read of the machine and from the characters that
`CONSOLE_IN` has for it, next first. Log entry 29. -/
opaque Config.serviceReply (call : Nat) (vector : Word) (view : ServiceView) (chars : Nat → Option Word) : ServiceReply

/-- FREE VALUE (R96, I8): whether the host stops the engine at boundary number `n` of the run, where the state does
not give it. Log entry 14. -/
opaque Config.hostStops : Nat → Bool

end Sys2Proof
end

