-- ==== Sys2Proof/Machine/Params.lean ====
section
/-! DEFINITION. The values spec/ decides for the parameters of R7. Each is marked in the log: none is
the source's own. -/

namespace Sys2Proof.Machine

/-- `ENTRY_PC` when the loader supplies none (R108). PRESUMED (spec D6, general knowledge): log entry 2. Unsafe. -/
def defaultEntryPc : Word := 0x3000#16

/-- `COND_RESET` (R28). DESIGN CHOICE (spec D5): log entry 3. Unsafe. -/
def defaultCondReset : Word := 0x0000#16

/-- `ILLEGAL_POLICY` (R57, R91, R92). DESIGN CHOICE between the spec's two (spec D4): log entry 4. Unsafe. -/
def defaultIllegalPolicy : IllegalPolicy := .inert

/-- `TRAP_LINK_R7` (R88). PRESUMED (spec D11): log entry 5. Unsafe. -/
def defaultTrapLinkR7 : Bool := true

/-- `TRAP_SERVICE`, the table of R90; every other vector is the row "any other". PRESUMED (spec D12): log
entry 6. Unsafe. -/
def defaultTrapService : List (Word × Service) :=
  [(0x20#16, .getc), (0x21#16, .out), (0x22#16, .puts), (0x23#16, .inp), (0x24#16, .putsp), (0x25#16, .halt)]

/-- `KBSR_ADDR` (R37). PRESUMED (spec D7): log entry 7. Unsafe. -/
def defaultKbsrAddr : Word := 0xFE00#16

/-- `KBDR_ADDR` (R37). PRESUMED (spec D7): log entry 7. Unsafe. -/
def defaultKbdrAddr : Word := 0xFE02#16

/-- `KBSR_READY` (R38). PRESUMED (spec D8): log entry 7. Unsafe. -/
def defaultKbsrReady : Word := 0x8000#16

/-- The parameters a machine has when nothing else is said (R7). -/
def defaultConfig : Config where
  entryPc := defaultEntryPc
  condReset := defaultCondReset
  illegalPolicy := defaultIllegalPolicy
  trapLinkR7 := defaultTrapLinkR7
  trapService := defaultTrapService
  kbsrAddr := defaultKbsrAddr
  kbdrAddr := defaultKbdrAddr
  kbsrReady := defaultKbsrReady

end Sys2Proof.Machine
end

