-- ==== Sys2Proof/Machine/State.lean ====
section
/-! DEFINITION. The machine's state as plain data: the tuple `(R, PC, COND, M, run)` of R13, the
parameters of R7, and, as the model's own fields, the interfaces of R59 (what the keyboard, the console, the
external trap services and the host answer, and the console's output). -/

namespace Sys2Proof.Machine

/-- One word of memory at a word address (R30, R31). Log entry 20. -/
abbrev Cell := Nat × Word

/-- The memory array `M` (R27): the words that differ from what reset leaves, addresses strictly rising. -/
abbrev Memory := List Cell

/-- The engine's run state (R26). -/
inductive RunState where
  /-- RUNNING: the engine fetches and executes. -/
  | running
  /-- HALTED: terminal (R66, R105). -/
  | halted
  /-- The faulted state of the strict variant, with its record: `pc_i` and `w` (R94). -/
  | faulted (pcI w : Word)
  deriving DecidableEq, Repr

/-- An interface outside the CORE that the machine asks for answers of type `α` (R38, R89, R90, R96). -/
structure Channel (α : Type) where
  /-- The answers already settled, next one first; beyond them an answer is a free value. -/
  answers : List α
  /-- How often it has been asked. -/
  draws : Nat
  deriving DecidableEq, Repr

/-- The whole state. `regs`, `pc`, `cond`, `mem`, `run` are the spec's (R13); `cfg` holds the parameters of
R7; the rest is the model's own and stands for the interfaces of R59. -/
structure State where
  /-- R0..R7 (R15). -/
  regs : Vector Word 8
  /-- PC (R18). -/
  pc : Word
  /-- COND: NEGATIVE bit 2, ZERO bit 1, POSITIVE bit 0 (R19). -/
  cond : Word
  /-- M (R27). -/
  mem : Memory
  /-- The engine's run state (R26). -/
  run : RunState
  /-- The parameters of R7; no step changes them. -/
  cfg : Config
  /-- KEYBOARD (R38). -/
  keyboard : Channel (Option Word)
  /-- CONSOLE_IN (R90). -/
  consoleIn : Channel (Option Word)
  /-- What the services have written to the console, oldest first (R90). -/
  consoleOut : List ConsoleEvent
  /-- What the external services of `TRAP_SERVICE` do, call by call (R89). -/
  services : Channel ServiceReply
  /-- Whether the host stops the engine, boundary by boundary (R96). -/
  host : Channel Bool
  deriving DecidableEq, Repr

/-- Why a step has no next state. Each is the case of R89 in which a trap service has no outcome at all:
the step never completes, and the run has no further state. No instruction raises an exception (R93). -/
inductive Fault where
  /-- Raised by TRAP's GETC and IN, and by an external service, when CONSOLE_IN never answers (R89, R90). Stuck;
  safe: no state follows, so nothing can be proved of one. Log entry 10. -/
  | consoleNeverAnswers
  /-- Raised by TRAP's PUTS and PUTSP when no word of memory is 0x0000, so the string has no end (R90).
  Stuck; safe. Log entry 11. -/
  | stringNeverEnds
  /-- Raised by TRAP to an external service whose relation gives no outcome (R89). Stuck; safe. Log entry 10. -/
  | serviceNeverReturns
  deriving DecidableEq, Repr

/-- Why the model gives an instruction no meaning. -/
inductive Refusal where
  /-- Raised by an arm of `exec` whose instruction has no meaning in the model: none is left. Safe. -/
  | notModelled (mnemonic : String)
  deriving DecidableEq, Repr

/-- What a trap service returns (R89): exactly one of `resume`, `halt`, or no outcome at all. -/
inductive ServiceOutcome where
  | resume (s : State)
  | halt (s : State)
  | never (why : Fault)
  deriving DecidableEq, Repr

/-- An interface not asked yet, none of whose answers is settled: every answer is a free value. Log entries 8, 9,
14, 29. -/
def Channel.fresh {α : Type} : Channel α where
  answers := []
  draws := 0

/-- The state after reset (R28, R106), before any image is loaded, for given parameters. -/
def State.resetWith (cfg : Config) : State where
  regs := Vector.replicate 8 0x0000#16
  pc := cfg.entryPc
  cond := cfg.condReset
  mem := []
  run := .running
  cfg := cfg
  keyboard := Channel.fresh
  consoleIn := Channel.fresh
  consoleOut := []
  services := Channel.fresh
  host := Channel.fresh

/-- The machine right after reset, with the parameters' decided values (R28). -/
def State.reset : State := State.resetWith defaultConfig

end Sys2Proof.Machine
end

