-- ==== Sys2Proof/Machine/Ops.lean ====
section
/-! DEFINITION. The named operations every rule uses (R12): general registers, the memory array and its two
access primitives with the keyboard poll, the fetch, the link write, the strict variant's one exception, the
end of a run, and the step of the engine. -/

namespace Sys2Proof.Machine

/-! ### The memory array (R27, R30) -/

/-- What an address nothing has written reads as (R28, R29). -/
def Memory.unwritten : Word := 0x0000#16

/-- The word at an address of the array. -/
def Memory.read : Memory → Nat → Word
  | [], _ => Memory.unwritten
  | (b, x) :: rest, a => if a = b then x else Memory.read rest a

/-- The array without what it lists for an address. -/
def Memory.drop : Memory → Nat → Memory
  | [], _ => []
  | (b, x) :: rest, a => if a = b then Memory.drop rest a else (b, x) :: Memory.drop rest a

/-- The array with a word listed for an address it does not list, addresses rising. -/
def Memory.place : Memory → Nat → Word → Memory
  | [], a, v => [(a, v)]
  | (b, x) :: rest, a, v => if a < b then (a, v) :: (b, x) :: rest else (b, x) :: Memory.place rest a v

/-- The array with one word replaced, in canonical form: a word an unlisted address would read as is not
listed. -/
def Memory.write (m : Memory) (a : Nat) (v : Word) : Memory :=
  if v = Memory.unwritten then Memory.drop m a else Memory.place (Memory.drop m a) a v

/-- The canonical form from address `lo` on: addresses strictly rising and below 65536, and no word listed
that an unlisted address would read as. -/
def Memory.wfFrom (lo : Nat) : Memory → Bool
  | [] => true
  | (a, v) :: rest => decide (lo ≤ a) && decide (a < 65536) && (v != Memory.unwritten) && Memory.wfFrom (a + 1) rest

/-- The canonical form of the array. -/
def Memory.wf (m : Memory) : Bool := Memory.wfFrom 0 m

/-- `M[a]`, the stored word, with no device behind it (R27). -/
def State.peek (s : State) (a : Word) : Word := Memory.read s.mem a.toNat

/-- `M[a] <- v` (R36). -/
def State.poke (s : State) (a v : Word) : State := { s with mem := Memory.write s.mem a.toNat v }

/-! ### Registers (R15, R18) -/

/-- `x[r]`: the value held in a general register, never its index (R15, R54). -/
def State.reg (s : State) (r : RegIdx) : Word := s.regs[r.toNat]'r.isLt

/-- `x[r] <- v`. None is hardwired (R15). -/
def State.setReg (s : State) (r : RegIdx) (v : Word) : State :=
  { s with regs := s.regs.set r.toNat v r.isLt }

/-- `x[r] <- values[r]` for each listed register. -/
def State.setRegs (s : State) (values : Vector Word 8) : List RegIdx → State
  | [] => s
  | r :: rest => (s.setReg r (values[r.toNat]'r.isLt)).setRegs values rest

/-- `PC <- v` (R18). -/
def State.setPc (s : State) (v : Word) : State := { s with pc := v }

/-- `COND <- v` (R19). -/
def State.setCond (s : State) (v : Word) : State := { s with cond := v }

/-! ### The interfaces outside the CORE (R38, R59, R89, R90, R96) -/

/-- The next answer: the next settled one, else the free value of this draw. -/
def Channel.answer {α : Type} (free : Nat → α) (c : Channel α) : α :=
  match c.answers with
  | [] => free c.draws
  | a :: _ => a

/-- The interface after it has been asked once. -/
def Channel.asked {α : Type} (c : Channel α) : Channel α := { answers := c.answers.tail, draws := c.draws + 1 }

/-- The interface after it has been asked `n` times. -/
def Channel.askedTimes {α : Type} (c : Channel α) : Nat → Channel α
  | 0 => c
  | n + 1 => c.asked.askedTimes n

/-- The answer `KEYBOARD.poll()` gives next: `some k` (a key) or `none` (R38). -/
def State.keyAnswer (s : State) : Option Word := s.keyboard.answer Config.keyboardAnswer

/-- The answer `CONSOLE_IN.read()` gives next: a character, or `none` (it never answers) (R90). -/
def State.charAnswer (s : State) : Option Word := s.consoleIn.answer Config.consoleAnswer

/-- The character that `k` more come before. -/
def State.charAhead (s : State) (k : Nat) : Option Word := (s.consoleIn.askedTimes k).answer Config.consoleAnswer

/-- Whether the next `n` reads of the console are all answered. -/
def State.charsCome (s : State) (n : Nat) : Bool := (List.range n).all (fun k => (s.charAhead k).isSome)

/-- What a trap service may read (R90). -/
def State.view (s : State) : ServiceView := { regs := s.regs, cond := s.cond, mem := s.mem }

/-- What the external service of a vector does when it is called next (R89). -/
def State.serviceReply (s : State) (v : Word) : ServiceReply :=
  s.services.answer (fun call => Config.serviceReply call v s.view s.charAhead)

/-- Whether the host stops the engine at this boundary (R96). -/
def State.hostStops (s : State) : Bool := s.host.answer Config.hostStops

/-- The state once the keyboard has been asked. -/
def State.askKeyboard (s : State) : State := { s with keyboard := s.keyboard.asked }

/-- The state once the console has been asked. -/
def State.askConsole (s : State) : State := { s with consoleIn := s.consoleIn.asked }

/-- The state once the console has been asked `n` times. -/
def State.askConsoleTimes (s : State) (n : Nat) : State := { s with consoleIn := s.consoleIn.askedTimes n }

/-- The state once an external trap service has been called. -/
def State.askService (s : State) : State := { s with services := s.services.asked }

/-- The state with something written to the console, which no program can read (R90). -/
def State.print (s : State) (es : List ConsoleEvent) : State := { s with consoleOut := s.consoleOut ++ es }

/-! ### The access primitives (R35, R36, R38) -/

/-- `KbsrPoll()` (R38): ask the keyboard once; a key goes to the data register's word, and the status word
is set to what the poll returns. -/
def State.kbsrPoll (s : State) : Word × State :=
  match s.keyAnswer with
  | some k => (s.cfg.kbsrReady, (s.askKeyboard.poke s.cfg.kbdrAddr k).poke s.cfg.kbsrAddr s.cfg.kbsrReady)
  | none => (0x0000#16, s.askKeyboard.poke s.cfg.kbsrAddr 0x0000#16)

/-- `MemRead(a)` (R35): a poll at `KBSR_ADDR`, the stored word elsewhere. -/
def State.memRead (s : State) (a : Word) : Word × State :=
  if a = s.cfg.kbsrAddr then s.kbsrPoll else (s.peek a, s)

/-- `MemWrite(a, v)` (R36): an ordinary store at every address. -/
def State.memWrite (s : State) (a v : Word) : State := s.poke a v

/-! ### Fetch (R61) -/

/-- `w <- MemRead(PC); PC <- PC + 1`: the word and the state in which the instruction executes. -/
def State.fetch (s : State) : Word × State :=
  ((s.memRead s.pc).1, (s.memRead s.pc).2.setPc (s.pc + 1))

/-! ### Linkage, traps and the one exception -/

/-- `x[7] <- PC` (R76, R77, R88): PC is the address after the instruction. -/
def State.linkR7 (s : State) : State := s.setReg 7#3 s.pc

/-- Entry of a TRAP (R88, R98): the return address in R7 when `TRAP_LINK_R7`, and nothing else. -/
def State.trapEntry (s : State) : State := if s.cfg.trapLinkR7 then s.linkR7 else s

/-- `raise IllegalOpcode(pc_i, w)` (R94): the record is the fetch address and the word; PC keeps the fetch's
increment and the engine takes no further step. Log entry 15. -/
def State.raiseIllegalOpcode (s : State) (w : Word) : State := { s with run := .faulted (s.pc - 1) w }

/-- What a reserved opcode does (R57, R91, R92): nothing under `inert`, the exception under `fault`. -/
def State.reservedOpcode (s : State) (w : Word) : State :=
  match s.cfg.illegalPolicy with
  | .inert => s
  | .fault => s.raiseIllegalOpcode w

/-- HALTED, everything else as it is (R89, R105). -/
def State.halt (s : State) : State := { s with run := .halted }

/-- Return from a trap service (R89, R99): resume where PC stands, halt, or no outcome. There is no other
return from a trap or an exception: RTI is reserved. -/
def ServiceOutcome.complete : ServiceOutcome → Host.Outcome State Fault Refusal
  | .resume s => .next s
  | .halt s => .next s.halt
  | .never why => .fault why

/-! ### The engine (R60, R64, R66, R96) -/

/-- The host stop (R96): `run <- HALTED`, every other piece of state as it is. -/
def State.hostStop (s : State) : State := s.halt

/-- The engine passes a boundary at which the host does not stop it. -/
def State.passBoundary (s : State) : State := { s with host := s.host.asked }

/-- One step of the engine over a dispatch `ex`: a state that is not RUNNING stays as it is (R66, R94); at
the boundary a host stop is taken before the fetch (R97); else fetch, decode, dispatch (R64). -/
def stepWith (ex : Instr → State → Host.Outcome State Fault Refusal) (s : State) :
    Host.Outcome State Fault Refusal :=
  match s.run with
  | .running =>
    if s.hostStops then .next s.hostStop
    else ex (decode s.passBoundary.fetch.1) s.passBoundary.fetch.2
  | _ => .next s

/-- The state with a word placed where the next step fetches, and the engine set to take that step: RUNNING, and
at this boundary the host lets it go on. -/
def State.placeAtPc (s : State) (w : Word) : State :=
  { s.poke s.pc w with
    run := .running
    host := { answers := false :: s.host.answers.tail, draws := s.host.draws } }

end Sys2Proof.Machine
end

