-- ==== Sys2Proof/Machine/Flags.lean ====
section
/-! DEFINITION. The flag update (R19 to R22). -/

namespace Sys2Proof.Machine

/-- POSITIVE, bit 0 (R19). -/
def flPos : Word := 0x0001#16

/-- ZERO, bit 1 (R19). -/
def flZro : Word := 0x0002#16

/-- NEGATIVE, bit 2 (R19). -/
def flNeg : Word := 0x0004#16

/-- The flag of a value by its signed reading (R21). -/
def condOf (v : Word) : Word := if bit v 15 then flNeg else if v = 0x0000#16 then flZro else flPos

/-- `SetCC(r)` (R21): writes COND only. -/
def State.setCC (s : State) (r : RegIdx) : State := s.setCond (condOf (s.reg r))

/-- `x[DR] <- v; SetCC(DR)`, the end of every flag-setting instruction (R22). -/
def State.writeResult (s : State) (dr : RegIdx) (v : Word) : State := (s.setReg dr v).setCC dr

/-- BR's test (R74): `(zext_16(nzp) & COND) != 0`. -/
def State.branchTaken (s : State) (nzp : BitVec 3) : Bool := zext nzp &&& s.cond != 0x0000#16

end Sys2Proof.Machine
end

