-- ==== Sys2Proof/Machine/Operands.lean ====
section
/-! DEFINITION. The addressing modes of R78. Every sum is modulo 2^16 (R33), none modifies a register, and
offsets come already extended from the decoder (R53, R62). -/

namespace Sys2Proof.Machine

/-- PC-relative: `PC + offset`, PC already past the instruction (R18, R78). -/
def State.pcRel (s : State) (off : Word) : Word := s.pc + off

/-- Base + offset: `x[BaseR] + sext_6(offset6)` (R78). -/
def State.baseOff (s : State) (baseR : RegIdx) (off : Word) : Word := s.reg baseR + off

/-- Indirect: the pointer, read with `MemRead` at the PC-relative address, and the state after that read (R78). -/
def State.indirect (s : State) (off : Word) : Word × State := s.memRead (s.pcRel off)

end Sys2Proof.Machine
end

