-- ==== Sys2Proof/Machine/Control.lean ====
section
/-! DEFINITION. BR, JMP, JSR and JSRR (R73 to R77). None sets the condition codes; no delay slot. -/

namespace Sys2Proof.Machine

/-- BR (R74). -/
def execBr (nzp : BitVec 3) (pcOffset9 : Word) (s : State) : Host.Outcome State Fault Refusal :=
  .next (if s.branchTaken nzp then s.setPc (s.pcRel pcOffset9) else s)

/-- JMP, and RET (R75): to the value held in BaseR. -/
def execJmp (baseR : RegIdx) (s : State) : Host.Outcome State Fault Refusal :=
  .next (s.setPc (s.reg baseR))

/-- JSR (R76): link, then the PC-relative target. -/
def execJsr (pcOffset11 : Word) (s : State) : Host.Outcome State Fault Refusal :=
  .next (s.linkR7.setPc (s.linkR7.pcRel pcOffset11))

/-- JSRR (R77): BaseR is read after the link write, so `JSRR R7` continues at the next instruction.
DEDUCED (spec D14): log entry 17. -/
def execJsrr (baseR : RegIdx) (s : State) : Host.Outcome State Fault Refusal :=
  .next (s.linkR7.setPc (s.linkR7.reg baseR))

end Sys2Proof.Machine
end

