-- ==== Sys2Proof/Machine/Load.lean ====
section
/-! DEFINITION. LD, LDI, LDR and LEA (R79 to R83): whole words, each followed by SetCC. -/

namespace Sys2Proof.Machine

/-- `x[DR] <- MemRead(a); SetCC(DR)`. -/
def State.loadInto (s : State) (dr : RegIdx) (a : Word) : State :=
  (s.memRead a).2.writeResult dr (s.memRead a).1

/-- LD (R80). -/
def execLd (dr : RegIdx) (pcOffset9 : Word) (s : State) : Host.Outcome State Fault Refusal :=
  .next (s.loadInto dr (s.pcRel pcOffset9))

/-- LDI (R81): the pointer read, then the data read, either of which may poll. -/
def execLdi (dr : RegIdx) (pcOffset9 : Word) (s : State) : Host.Outcome State Fault Refusal :=
  .next ((s.indirect pcOffset9).2.loadInto dr (s.indirect pcOffset9).1)

/-- LDR (R82): BaseR read by value, before DR is written. -/
def execLdr (dr baseR : RegIdx) (offset6 : Word) (s : State) : Host.Outcome State Fault Refusal :=
  .next (s.loadInto dr (s.baseOff baseR offset6))

/-- LEA (R83): the address itself; no memory access, so no poll. -/
def execLea (dr : RegIdx) (pcOffset9 : Word) (s : State) : Host.Outcome State Fault Refusal :=
  .next (s.writeResult dr (s.pcRel pcOffset9))

end Sys2Proof.Machine
end

