-- ==== Sys2Proof/Machine/Store.lean ====
section
/-! DEFINITION. ST, STI and STR (R84 to R87): whole words; no store sets the condition codes. -/

namespace Sys2Proof.Machine

/-- ST (R85). -/
def execSt (sr : RegIdx) (pcOffset9 : Word) (s : State) : Host.Outcome State Fault Refusal :=
  .next (s.memWrite (s.pcRel pcOffset9) (s.reg sr))

/-- STI (R86): the pointer read, which may poll, then the write. -/
def execSti (sr : RegIdx) (pcOffset9 : Word) (s : State) : Host.Outcome State Fault Refusal :=
  .next ((s.indirect pcOffset9).2.memWrite (s.indirect pcOffset9).1 ((s.indirect pcOffset9).2.reg sr))

/-- STR (R87). -/
def execStr (sr baseR : RegIdx) (offset6 : Word) (s : State) : Host.Outcome State Fault Refusal :=
  .next (s.memWrite (s.baseOff baseR offset6) (s.reg sr))

end Sys2Proof.Machine
end

