-- ==== Sys2Proof/Machine/Service.lean ====
section
/-! DEFINITION. The trap service port (R89, R90): which service a vector reaches, what each does to the CORE and to
the console, and how an outcome completes the step. A service writes no memory and never changes PC. -/

namespace Sys2Proof.Machine

/-- `TRAP_SERVICE`: the service of a vector; a vector the table does not list is the row "any other". -/
def serviceAt : List (Word × Service) → Word → Service
  | [], _ => .unknown
  | (u, sv) :: rest, v => if v = u then sv else serviceAt rest v

/-- GETC (R90): one character to R0, then `SetCC(0)`. -/
def serviceGetc (s : State) : ServiceOutcome :=
  match s.charAnswer with
  | some k => .resume (s.askConsole.writeResult 0#3 k)
  | none => .never .consoleNeverAnswers

/-- OUT (R90): the character `x[0][7:0]`. -/
def serviceOut (s : State) : ServiceOutcome := .resume (s.print [.char (field (s.reg 0#3) 0 8)])

/-- The stored words from address `a` up to but not including the first 0x0000, looking at no more than
`fuel` words; `none` when none of them is 0x0000. The address wraps (R33). -/
def stringAt (s : State) (a : Word) : Nat → Option (List Word)
  | 0 => none
  | fuel + 1 =>
    if s.peek a = 0x0000#16 then some []
    else (stringAt s (a + 1) fuel).map (s.peek a :: ·)

/-- The string at `x[0]`: `none` when all 65536 words are non-zero, so that it has no end. -/
def State.string (s : State) : Option (List Word) := stringAt s (s.reg 0#3) 65536

/-- What PUTS writes for one word: its low half. -/
def putsWord (w : Word) : List ConsoleEvent := [.char (field w 0 8)]

/-- What PUTSP writes for one word: its low half, then its high half if that is not zero. -/
def putspWord (w : Word) : List ConsoleEvent :=
  if field w 8 8 = 0x00#8 then [.char (field w 0 8)] else [.char (field w 0 8), .char (field w 8 8)]

/-- A service that writes the string at `x[0]`, each word as `f` says. -/
def serviceString (f : Word → List ConsoleEvent) (s : State) : ServiceOutcome :=
  match s.string with
  | some ws => .resume (s.print (ws.flatMap f))
  | none => .never .stringNeverEnds

/-- IN (R90): a prompt, one character, its echo; the character to R0, then `SetCC(0)`. -/
def serviceIn (s : State) : ServiceOutcome :=
  match s.charAnswer with
  | some k => .resume ((s.askConsole.print [.prompt, .echo k]).writeResult 0#3 k)
  | none => .never .consoleNeverAnswers

/-- HALT (R90): a message, then the engine halts. -/
def serviceHalt (s : State) : ServiceOutcome := .halt (s.print [.haltMessage])

/-- The state an external service leaves (R90): of its reply, the registers and COND only where its row lets it
write them. -/
def State.takeReply (s : State) (writes : List RegIdx) (writesCond : Bool) (r : ServiceReply) : State :=
  ((((s.askService.askConsoleTimes r.reads).print r.output).setRegs r.regs writes).setCond
    (if writesCond then zext r.cond else s.cond))

/-- An external service (R89): its relation decides between `resume`, `halt` and no outcome. It waits for every
character it reads. -/
def serviceExternal (writes : List RegIdx) (writesCond : Bool) (v : Word) (s : State) : ServiceOutcome :=
  if s.charsCome (s.serviceReply v).reads then
    match (s.serviceReply v).outcome with
    | .resume => .resume (s.takeReply writes writesCond (s.serviceReply v))
    | .halt => .halt (s.takeReply writes writesCond (s.serviceReply v))
    | .never => .never .serviceNeverReturns
  else .never .consoleNeverAnswers

/-- One row of `TRAP_SERVICE`, called with a vector. -/
def runService : Service → Word → State → ServiceOutcome
  | .getc, _, s => serviceGetc s
  | .out, _, s => serviceOut s
  | .puts, _, s => serviceString putsWord s
  | .inp, _, s => serviceIn s
  | .putsp, _, s => serviceString putspWord s
  | .halt, _, s => serviceHalt s
  | .unknown, _, s => .resume s
  | .external writes writesCond, v, s => serviceExternal writes writesCond v s

/-- `TRAP_SERVICE` as the relation of R7 and R89: a vector and a state to an outcome. -/
abbrev TrapService := Word → State → ServiceOutcome

/-- The relation that a machine's own parameters give. -/
def tableService : TrapService := fun v s => runService (serviceAt s.cfg.trapService v) v s

/-- `TrapCall(v)` (R89) for any relation: the vector and the whole state to the service; the step completes with its
outcome. -/
def trapCall (service : TrapService) (v : Word) (s : State) : Host.Outcome State Fault Refusal :=
  (service v s).complete

end Sys2Proof.Machine
end

