-- ==== Sys2Proof/Machine/Trap.lean ====
section
/-! DEFINITION. TRAP, RTI and RES (R88, R91, R92). -/

namespace Sys2Proof.Machine

/-- TRAP (R88) for any `TRAP_SERVICE`: the link write, then the hand-off. No vector table is read from memory. -/
def execTrapUnder (service : TrapService) (trapvect8 : Word) (s : State) : Host.Outcome State Fault Refusal :=
  trapCall service trapvect8 s.trapEntry

/-- TRAP (R88) with the services of the machine's own parameters. -/
def execTrap (trapvect8 : Word) (s : State) : Host.Outcome State Fault Refusal :=
  execTrapUnder tableService trapvect8 s

/-- RTI (R91): reserved; it returns from nothing. -/
def execRti (unused : BitVec 12) (s : State) : Host.Outcome State Fault Refusal :=
  .next (s.reservedOpcode (encode (.rti unused)))

/-- RES (R92): reserved. -/
def execRes (unused : BitVec 12) (s : State) : Host.Outcome State Fault Refusal :=
  .next (s.reservedOpcode (encode (.res unused)))

end Sys2Proof.Machine
end

