-- ==== Sys2Proof/Machine/Step.lean ====
section
/-! DEFINITION. One step of the engine (R64), and where it fetches its next instruction. -/

namespace Sys2Proof.Machine

/-- One step (R60, R64, R66, R96): `stepWith` of Ops over `exec`. -/
def step : State → Host.Outcome State Fault Refusal := stepWith exec

/-- Execute under any `TRAP_SERVICE` relation, a named argument of the model (R7): only TRAP consults it. -/
def execUnder (service : TrapService) (i : Instr) (s : State) : Host.Outcome State Fault Refusal :=
  match i with
  | .trap trapvect8 => execTrapUnder service trapvect8 s
  | other => exec other s

/-- One step under any `TRAP_SERVICE` relation. `step` is the one of the machine's own parameters. -/
def stepUnder (service : TrapService) : State → Host.Outcome State Fault Refusal := stepWith (execUnder service)

/-- `s` with the instruction of the bits `w` (those above `nbits` zero) stored where the next step fetches
it, and the host letting that step go on. A fetch from `KBSR_ADDR` polls the keyboard and reads no stored word (R35,
R61). -/
def State.withFetchWord (s : State) (nbits w : Nat) : State := s.placeAtPc (BitVec.ofNat 16 (w % 2 ^ nbits))

end Sys2Proof.Machine
end

