-- ==== Sys2Proof/Machine/Loader.lean ====
section
/-! DEFINITION. The loader's contract as the CORE relies on it (R106, R107, R108). The loader itself is out of
scope (R4). -/

namespace Sys2Proof.Machine

/-- `M[origin + k] <- ` the k-th word, for every k (R107). -/
def pokeAll (s : State) (origin : Word) : List Word → State
  | [] => s
  | w :: rest => pokeAll (s.poke origin w) (origin + 1) rest

/-- One image: its first word is the origin, the rest is loaded from there on. `none`: not an image, or one
that would extend past 0xFFFF, which is outside the contract (R107, spec D16). Log entry 23. -/
def loadImage (s : State) : List Word → Option State
  | [] => none
  | origin :: words =>
    if origin.toNat + words.length ≤ 65536 then some (pokeAll s origin words) else none

/-- The images in sequence; later ones may overwrite earlier ones (R107). One failure aborts it all (R106). -/
def loadImages (s : State) : List (List Word) → Option State
  | [] => some s
  | image :: rest => (loadImage s image).bind (fun t => loadImages t rest)

/-- Reset and loading (R106): everything zero, the images in memory, PC at `ENTRY_PC`, RUNNING. -/
def boot (cfg : Config) (images : List (List Word)) : Option State :=
  loadImages (State.resetWith cfg) images

end Sys2Proof.Machine
end

