-- ==== Sys2Proof/Safety.lean ====
section
/-! DEFINITION. The terms the claims use: the machine's invariant, the flag a value leaves, what a state
keeps of another, and which instruction writes what. -/

namespace Sys2Proof.Machine

/-- Bits 15..3 of COND are zero (R19). -/
abbrev State.CondReserved (s : State) : Prop := s.cond &&& 0xFFF8#16 = 0x0000#16

/-- The invariant of the machine: the memory list is in its canonical form, and COND's reserved bits are
zero (R19). -/
abbrev State.Inv (s : State) : Prop := Memory.wf s.mem = true ∧ s.CondReserved

/-- The flag of a value, by its signed reading (R9, R21): 4 NEGATIVE, 2 ZERO, 1 POSITIVE. -/
def flagFor (v : Word) : Word := if v.toInt < 0 then 4#16 else if v.toInt = 0 then 2#16 else 1#16

/-- Every general register but the listed ones is as before. -/
def RegsSame (s t : State) (but : List RegIdx) : Prop := ∀ r : RegIdx, r ∉ but → t.reg r = s.reg r

/-- Every word of memory but the listed addresses is as before. -/
def MemSame (s t : State) (but : List Word) : Prop := ∀ a : Word, a ∉ but → t.peek a = s.peek a

/-- The run state, the parameters and the host's decisions are as before. -/
def EngineSame (s t : State) : Prop := t.run = s.run ∧ t.cfg = s.cfg ∧ t.host = s.host

/-- The console, in and out, and the external trap services are as before. -/
def ConsoleSame (s t : State) : Prop :=
  t.consoleIn = s.consoleIn ∧ t.consoleOut = s.consoleOut ∧ t.services = s.services

/-- A flag-setting instruction's end: DR holds the value, COND its flag, PC and the other registers are as
before (R22). -/
def ResultIn (s t : State) (dr : RegIdx) (v : Word) : Prop :=
  t.reg dr = v ∧ t.cond = flagFor v ∧ t.pc = s.pc ∧ RegsSame s t [dr]

/-- A load's end: the value and the memory and keyboard that `MemRead(a)` leaves in state `s1`, nothing
else; where `a` is no device register, the stored word, and all of memory as before. `s1` is the state in
which the data is read (`s` itself but for LDI). -/
def LoadedFrom (s s1 t : State) (dr : RegIdx) (a : Word) : Prop :=
  ResultIn s t dr (s1.memRead a).1 ∧ MemSame (s1.memRead a).2 t [] ∧ t.keyboard = (s1.memRead a).2.keyboard ∧
    EngineSame s t ∧ ConsoleSame s t ∧
    (a ≠ s1.cfg.kbsrAddr → t.reg dr = s1.peek a ∧ MemSame s1 t [] ∧ t.keyboard = s1.keyboard)

/-- A store's end: the word at `a`, every other word as in `s1`, and nothing else changed. `s1` is the state
in which the store happens (`s` itself but for STI). -/
def StoredAt (s s1 t : State) (a v : Word) : Prop :=
  t.peek a = v ∧ MemSame s1 t [a] ∧ t.keyboard = s1.keyboard ∧ RegsSame s t [] ∧ t.cond = s.cond ∧ t.pc = s.pc ∧
    EngineSame s t ∧ ConsoleSame s t

/-- What every instruction keeps that touches neither memory nor a device nor the engine. -/
def OutsideSame (s t : State) : Prop :=
  MemSame s t [] ∧ t.keyboard = s.keyboard ∧ EngineSame s t ∧ ConsoleSame s t

/-- R7 after a TRAP's entry (R88). -/
def linkedR7 (s : State) : Word := if s.cfg.trapLinkR7 then s.pc else s.reg 7#3

/-- The service a vector reaches in a state (R90). -/
def State.service (s : State) (v : Word) : Service := serviceAt s.cfg.trapService v

/-- The destination register of the flag-setting instructions (R22): ADD, AND, NOT, LD, LDI, LDR, LEA. -/
def flagDest : Instr → Option RegIdx
  | .addReg dr _ _ => some dr
  | .addImm dr _ _ => some dr
  | .andReg dr _ _ => some dr
  | .andImm dr _ _ => some dr
  | .notReg dr _ => some dr
  | .ld dr _ => some dr
  | .ldi dr _ => some dr
  | .ldr dr _ _ => some dr
  | .lea dr _ => some dr
  | .br _ _ => none
  | .jmp _ => none
  | .jsr _ => none
  | .jsrr _ => none
  | .st _ _ => none
  | .sti _ _ => none
  | .str _ _ _ => none
  | .trap _ => none
  | .rti _ => none
  | .res _ => none

/-- The general registers an instruction may write in a state (R16, R90). -/
def mayWrite (s : State) : Instr → List RegIdx
  | .addReg dr _ _ => [dr]
  | .addImm dr _ _ => [dr]
  | .andReg dr _ _ => [dr]
  | .andImm dr _ _ => [dr]
  | .notReg dr _ => [dr]
  | .ld dr _ => [dr]
  | .ldi dr _ => [dr]
  | .ldr dr _ _ => [dr]
  | .lea dr _ => [dr]
  | .jsr _ => [7#3]
  | .jsrr _ => [7#3]
  | .trap v =>
    (if s.cfg.trapLinkR7 then [7#3] else []) ++
      (match s.service v with
        | .getc => [0#3]
        | .inp => [0#3]
        | .external writes _ => writes
        | .out => []
        | .puts => []
        | .putsp => []
        | .halt => []
        | .unknown => [])
  | .br _ _ => []
  | .jmp _ => []
  | .st _ _ => []
  | .sti _ _ => []
  | .str _ _ _ => []
  | .rti _ => []
  | .res _ => []

/-- The address a store instruction writes (R85, R86, R87). -/
def storeAddr (s : State) : Instr → Option Word
  | .st _ off => some (s.pcRel off)
  | .sti _ off => some (s.indirect off).1
  | .str _ baseR off => some (s.baseOff baseR off)
  | .addReg _ _ _ => none
  | .addImm _ _ _ => none
  | .andReg _ _ _ => none
  | .andImm _ _ _ => none
  | .notReg _ _ => none
  | .ld _ _ => none
  | .ldi _ _ => none
  | .ldr _ _ _ => none
  | .lea _ _ => none
  | .br _ _ => none
  | .jmp _ => none
  | .jsr _ => none
  | .jsrr _ => none
  | .trap _ => none
  | .rti _ => none
  | .res _ => none

/-- The mask and match of an instruction's row of spec/opcode_table.json. -/
def rowOf : Instr → Word × Word
  | .addReg _ _ _ => (0xF020#16, 0x1000#16)
  | .addImm _ _ _ => (0xF020#16, 0x1020#16)
  | .andReg _ _ _ => (0xF020#16, 0x5000#16)
  | .andImm _ _ _ => (0xF020#16, 0x5020#16)
  | .notReg _ _ => (0xF000#16, 0x9000#16)
  | .br _ _ => (0xF000#16, 0x0000#16)
  | .jmp _ => (0xF000#16, 0xC000#16)
  | .jsr _ => (0xF800#16, 0x4800#16)
  | .jsrr _ => (0xF800#16, 0x4000#16)
  | .ld _ _ => (0xF000#16, 0x2000#16)
  | .st _ _ => (0xF000#16, 0x3000#16)
  | .ldr _ _ _ => (0xF000#16, 0x6000#16)
  | .str _ _ _ => (0xF000#16, 0x7000#16)
  | .rti _ => (0xF000#16, 0x8000#16)
  | .ldi _ _ => (0xF000#16, 0xA000#16)
  | .sti _ _ => (0xF000#16, 0xB000#16)
  | .res _ => (0xF000#16, 0xD000#16)
  | .lea _ _ => (0xF000#16, 0xE000#16)
  | .trap _ => (0xF000#16, 0xF000#16)

/-- The rows of spec/opcode_table.json in its order: mask and match. -/
def opcodeRows : List (Word × Word) :=
  [(0xF020#16, 0x1000#16), (0xF020#16, 0x1020#16), (0xF020#16, 0x5000#16), (0xF020#16, 0x5020#16), (0xF000#16, 0x9000#16),
   (0xF000#16, 0x0000#16), (0xF000#16, 0xC000#16), (0xF800#16, 0x4800#16), (0xF800#16, 0x4000#16), (0xF000#16, 0x2000#16),
   (0xF000#16, 0x3000#16), (0xF000#16, 0x6000#16), (0xF000#16, 0x7000#16), (0xF000#16, 0x8000#16), (0xF000#16, 0xA000#16),
   (0xF000#16, 0xB000#16), (0xF000#16, 0xD000#16), (0xF000#16, 0xE000#16), (0xF000#16, 0xF000#16)]

/-- The bits of a word its row does not use (R56). RTI and RES use none of `w[11:0]`. -/
def unusedBits (w : Word) : Word :=
  match w.extractLsb' 12 4 with
  | 0x1#4 => if w.getLsbD 5 then 0x0000#16 else 0x0018#16
  | 0x5#4 => if w.getLsbD 5 then 0x0000#16 else 0x0018#16
  | 0x4#4 => if w.getLsbD 11 then 0x0000#16 else 0x063F#16
  | 0x9#4 => 0x003F#16
  | 0xC#4 => 0x0E3F#16
  | 0xF#4 => 0x0F00#16
  | 0x8#4 => 0x0FFF#16
  | 0xD#4 => 0x0FFF#16
  | _ => 0x0000#16

/-- What the external service of a vector does when a TRAP executes in `s`: it sees the link write (R98). -/
def State.trapReply (s : State) (v : Word) : ServiceReply := s.trapEntry.serviceReply v

/-- A TRAP whose service has no outcome (R89): CONSOLE_IN never answers, the string has no end, or the relation of an
external service gives none. -/
def TrapNeverReturns (s : State) (v : Word) : Prop :=
  ((s.service v = .getc ∨ s.service v = .inp) ∧ s.charAnswer = none) ∨
    ((s.service v = .puts ∨ s.service v = .putsp) ∧ ∀ a : Word, s.peek a ≠ 0x0000#16) ∨
    ((∃ ws wc, s.service v = .external ws wc) ∧
      ((∃ k < (s.trapReply v).reads, s.charAhead k = none) ∨ (s.trapReply v).outcome = .never))

/-- R90's contract, for any `TRAP_SERVICE` relation: whatever state it returns, it has written no memory, no PC and
nothing of the engine, the keyboard and the parameters, and no bit of COND above bit 2 (R19). -/
def ServiceContract (service : TrapService) : Prop :=
  ∀ (v : Word) (s t : State), (service v s = .resume t ∨ service v s = .halt t) →
    t.mem = s.mem ∧ t.pc = s.pc ∧ t.run = s.run ∧ t.cfg = s.cfg ∧ t.keyboard = s.keyboard ∧ t.host = s.host ∧
      (s.CondReserved → t.CondReserved)

end Sys2Proof.Machine
end

