-- ==== Sys2Proof/Certificates/Slice0/Obligations.lean ====
section
/-! DEFINITION. The statements, one def a statement, for the provers. A statement whose rule the spec marks
as its own decision says so and names the log entry. -/

open Sys2Proof Sys2Proof.Machine

/-! ### Encoding and decoding -/

/-- Words written out from R50's formats and from spec/95_test_vectors.md, and what they decode to. -/
def Obligations.SampleWordsDecode : Prop :=
  decode 0x107D#16 = .addImm 0 1 0xFFFD#16 ∧ decode 0x5401#16 = .andReg 2 0 1 ∧ decode 0x92BF#16 = .notReg 1 2 ∧
    decode 0x05FD#16 = .br 2 0xFFFD#16 ∧ decode 0xC1C0#16 = .jmp 7 ∧ decode 0x4802#16 = .jsr 2 ∧
    decode 0x40C0#16 = .jsrr 3 ∧ decode 0xA213#16 = .ldi 1 19 ∧ decode 0x6060#16 = .ldr 0 1 0xFFE0#16 ∧
    decode 0xB602#16 = .sti 3 2 ∧ decode 0x7041#16 = .str 0 1 1 ∧ decode 0xF025#16 = .trap 0x25 ∧
    decode 0xD123#16 = .res 0x123

/-- Decoding the encoding of a well-formed instruction gives it back: no operand bit is dropped. -/
def Obligations.DecodeOfEncode : Prop :=
  ∀ i : Instr, i.wellFormed = true → decode (encode i) = i

/-- R50, R56: encoding what a word decodes to gives back every bit of the word but the unused ones. -/
def Obligations.EncodeOfDecodeKeepsUsedBits : Prop :=
  ∀ w : Word, encode (decode w) &&& ~~~ unusedBits w = w &&& ~~~ unusedBits w

/-- Every word decodes to a well-formed instruction: each immediate is the extension of its field (R53). -/
def Obligations.DecodedIsWellFormed : Prop :=
  ∀ w : Word, (decode w).wellFormed = true

/-- R55: each word matches exactly one row of the opcode table, the row of what it decodes to. -/
def Obligations.EveryWordMatchesOneRow : Prop :=
  ∀ w : Word, ∀ row ∈ opcodeRows, (w &&& row.1 = row.2 ↔ row = rowOf (decode w))

/-- R56, D3 (log entry 18): changing only unused bits does not change what a word decodes to. RTI and RES, all of whose
`w[11:0]` is unused, keep the word for the fault record of R94 alone: under `inert` changing it changes nothing, under
`fault` the next state differs in the record's word and in nothing else. -/
def Obligations.UnusedBitsIgnored : Prop :=
  (∀ w x : Word, x &&& unusedBits w = x → w.extractLsb' 12 4 ≠ 0x8#4 → w.extractLsb' 12 4 ≠ 0xD#4 →
      decode (w ^^^ x) = decode w) ∧
    (∀ (w x : Word) (s : State), x &&& unusedBits w = x → s.cfg.illegalPolicy = .inert →
      exec (decode (w ^^^ x)) s = exec (decode w) s) ∧
    (∀ (w x : Word) (s : State), (w.extractLsb' 12 4 = 0x8#4 ∨ w.extractLsb' 12 4 = 0xD#4) → x &&& unusedBits w = x →
      s.cfg.illegalPolicy = .fault →
      exec (decode w) s = .next { s with run := .faulted (s.pc - 1) w } ∧
      exec (decode (w ^^^ x)) s = .next { s with run := .faulted (s.pc - 1) (w ^^^ x) })

/-- R10: the extension is the spec's formula, for every field width up to a word's. -/
def Obligations.SignExtensionFormula : Prop :=
  ∀ (n : Nat) (v : BitVec n), 0 < n → n ≤ 16 →
    sext v = if v.getLsbD (n - 1) = true then v.setWidth 16 ||| (0xFFFF#16 <<< n) else v.setWidth 16

/-- R53: the immediates that have an encoding are exactly those in the table's ranges. -/
def Obligations.ImmediateRanges : Prop :=
  ∀ v : Word,
    (fitsSigned 5 v = true ↔ -16 ≤ v.toInt ∧ v.toInt ≤ 15) ∧
    (fitsSigned 6 v = true ↔ -32 ≤ v.toInt ∧ v.toInt ≤ 31) ∧
    (fitsSigned 9 v = true ↔ -256 ≤ v.toInt ∧ v.toInt ≤ 255) ∧
    (fitsSigned 11 v = true ↔ -1024 ≤ v.toInt ∧ v.toInt ≤ 1023) ∧
    (fitsUnsigned 8 v = true ↔ v.toNat ≤ 255)

/-! ### Reset and loading -/

/-- R28, R29: registers and memory 0x0000, PC and COND at the parameters, RUNNING. The parameters' values
ENTRY_PC = 0x3000 and COND_RESET = 0x0000 are the spec's own decisions D6 and D5 (log entries 2, 3). -/
def Obligations.ResetLeaves : Prop :=
  (∀ cfg : Config, (∀ r, (State.resetWith cfg).reg r = 0x0000#16) ∧ (∀ a, (State.resetWith cfg).peek a = 0x0000#16) ∧
      (State.resetWith cfg).pc = cfg.entryPc ∧ (State.resetWith cfg).cond = cfg.condReset ∧
      (State.resetWith cfg).run = .running) ∧
    State.reset.pc = 0x3000#16 ∧ State.reset.cond = 0x0000#16

/-- R107: an image that fits is loaded from its origin on, and nothing else changes. That a longer one, and an
empty one, is no image is the spec's decision D16 (log entry 23). -/
def Obligations.ImageLoadsAtOrigin : Prop :=
  (∀ (s : State) (origin : Word) (words : List Word), origin.toNat + words.length ≤ 65536 →
      ∃ t, loadImage s (origin :: words) = some t ∧
        (∀ k, ∀ w ∈ words[k]?, t.peek (origin + BitVec.ofNat 16 k) = w) ∧
        (∀ a : Word, a.toNat < origin.toNat ∨ origin.toNat + words.length ≤ a.toNat → t.peek a = s.peek a) ∧
        t = { s with mem := t.mem }) ∧
    (∀ (s : State) (origin : Word) (words : List Word), 65536 < origin.toNat + words.length →
      loadImage s (origin :: words) = none) ∧
    (∀ s : State, loadImage s [] = none)

/-- R106: whatever images are loaded, a boot that succeeds leaves the registers, PC, COND and the run state at
their reset values and the memory in canonical form. That no interface has been asked yet is the model's own (log
entries 8, 9, 14, 29). -/
def Obligations.BootState : Prop :=
  ∀ (cfg : Config) (images : List (List Word)) (t : State), boot cfg images = some t →
    (∀ r, t.reg r = 0x0000#16) ∧ t.pc = cfg.entryPc ∧ t.cond = cfg.condReset ∧ t.run = .running ∧ t.cfg = cfg ∧
      Memory.wf t.mem = true ∧ t.keyboard = Channel.fresh ∧ t.consoleIn = Channel.fresh ∧ t.services = Channel.fresh ∧
      t.host = Channel.fresh ∧ t.consoleOut = []

/-! ### Memory and the keyboard -/

/-- R36: `MemWrite` sets one word and has no other effect, at every address. -/
def Obligations.MemWriteSetsOneWord : Prop :=
  ∀ (s : State) (a v : Word), (s.memWrite a v).peek a = v ∧ (∀ b, b ≠ a → (s.memWrite a v).peek b = s.peek b) ∧
    s.memWrite a v = { s with mem := (s.memWrite a v).mem }

/-- R35, R40: away from `KBSR_ADDR`, `MemRead` returns the stored word and changes nothing. -/
def Obligations.MemReadElsewhereIsPlain : Prop :=
  ∀ (s : State) (a : Word), a ≠ s.cfg.kbsrAddr → s.memRead a = (s.peek a, s)

/-- R38 (the spec's decision D8, log entries 7, 8): a status read asks the keyboard once. A key goes to the data
register and the ready value is returned; without one 0x0000 is returned. The status word holds what was
returned, and no other state changes. -/
def Obligations.StatusReadPolls : Prop :=
  ∀ s : State,
    (∀ k, s.keyAnswer = some k →
      (s.memRead s.cfg.kbsrAddr).1 = s.cfg.kbsrReady ∧
      (s.memRead s.cfg.kbsrAddr).2.peek s.cfg.kbsrAddr = s.cfg.kbsrReady ∧
      (s.cfg.kbdrAddr ≠ s.cfg.kbsrAddr → (s.memRead s.cfg.kbsrAddr).2.peek s.cfg.kbdrAddr = k) ∧
      MemSame s (s.memRead s.cfg.kbsrAddr).2 [s.cfg.kbsrAddr, s.cfg.kbdrAddr]) ∧
    (s.keyAnswer = none →
      (s.memRead s.cfg.kbsrAddr).1 = 0x0000#16 ∧
      (s.memRead s.cfg.kbsrAddr).2.peek s.cfg.kbsrAddr = 0x0000#16 ∧
      MemSame s (s.memRead s.cfg.kbsrAddr).2 [s.cfg.kbsrAddr]) ∧
    (s.memRead s.cfg.kbsrAddr).2 =
      { s with
        mem := (s.memRead s.cfg.kbsrAddr).2.mem
        keyboard := { answers := s.keyboard.answers.tail, draws := s.keyboard.draws + 1 } }

/-- R39: after a successful poll, an ordinary read of the data register gives the key and changes nothing; after a
store to it that came later, the stored value. -/
def Obligations.DataRegisterHoldsKey : Prop :=
  ∀ (s : State) (k v : Word), s.cfg.kbdrAddr ≠ s.cfg.kbsrAddr → s.keyAnswer = some k →
    let polled := (s.memRead s.cfg.kbsrAddr).2
    polled.memRead s.cfg.kbdrAddr = (k, polled) ∧ ((polled.memWrite s.cfg.kbdrAddr v).memRead s.cfg.kbdrAddr).1 = v

/-- Memories in canonical form that read the same at every address are the same data. -/
def Obligations.EqualReadsEqualMemory : Prop :=
  ∀ m m' : Memory, Memory.wf m = true → Memory.wf m' = true →
    (∀ a : Word, Memory.read m a.toNat = Memory.read m' a.toNat) → m = m'

/-! ### Operate instructions -/

/-- R21: `SetCC` reads one register and writes COND only, by the value's high bit, then by zero. -/
def Obligations.SetCCWritesOneFlag : Prop :=
  ∀ (s : State) (r : RegIdx),
    (s.setCC r).cond =
      (if (s.reg r).msb = true then 0x0004#16 else if s.reg r = 0x0000#16 then 0x0002#16 else 0x0001#16) ∧
    s.setCC r = { s with cond := (s.setCC r).cond }

/-- R70: the sum modulo 2^16 of both forms, the flag, and the frame. Both operands are read before DR is written. The
field positions are R50's, the spec's decision D1 (log entry 1). -/
def Obligations.AddWritesSum : Prop :=
  (∀ w : Word, w.extractLsb' 12 4 = 0x1#4 →
    decode w = if w.getLsbD 5 = true
      then .addImm (w.extractLsb' 9 3) (w.extractLsb' 6 3) ((w.extractLsb' 0 5).signExtend 16)
      else .addReg (w.extractLsb' 9 3) (w.extractLsb' 6 3) (w.extractLsb' 0 3)) ∧
  (∀ (dr sr1 sr2 : RegIdx) (s : State), ∃ t, exec (.addReg dr sr1 sr2) s = .next t ∧
    ResultIn s t dr (s.reg sr1 + s.reg sr2) ∧ OutsideSame s t) ∧
  (∀ (dr sr1 : RegIdx) (imm : Word) (s : State), ∃ t, exec (.addImm dr sr1 imm) s = .next t ∧
    ResultIn s t dr (s.reg sr1 + imm) ∧ OutsideSame s t)

/-- R71: bitwise AND in both forms. The field positions are R50's, the spec's decision D1 (log entry 1). -/
def Obligations.AndWritesConjunction : Prop :=
  (∀ w : Word, w.extractLsb' 12 4 = 0x5#4 →
    decode w = if w.getLsbD 5 = true
      then .andImm (w.extractLsb' 9 3) (w.extractLsb' 6 3) ((w.extractLsb' 0 5).signExtend 16)
      else .andReg (w.extractLsb' 9 3) (w.extractLsb' 6 3) (w.extractLsb' 0 3)) ∧
  (∀ (dr sr1 sr2 : RegIdx) (s : State), ∃ t, exec (.andReg dr sr1 sr2) s = .next t ∧
    ResultIn s t dr (s.reg sr1 &&& s.reg sr2) ∧ OutsideSame s t) ∧
  (∀ (dr sr1 : RegIdx) (imm : Word) (s : State), ∃ t, exec (.andImm dr sr1 imm) s = .next t ∧
    ResultIn s t dr (s.reg sr1 &&& imm) ∧ OutsideSame s t)

/-- R72: all 16 bits complemented. The field positions are R50's, and the unused bits are ignored, the spec's decisions
D1 and D3 (log entries 1, 18). -/
def Obligations.NotWritesComplement : Prop :=
  (∀ w : Word, w.extractLsb' 12 4 = 0x9#4 → decode w = .notReg (w.extractLsb' 9 3) (w.extractLsb' 6 3)) ∧
  (∀ (dr sr : RegIdx) (s : State), ∃ t, exec (.notReg dr sr) s = .next t ∧
    ResultIn s t dr (~~~ s.reg sr) ∧ OutsideSame s t)

/-! ### Control transfer -/

/-- R74: the branch is taken exactly when the mask meets COND; nothing but PC changes. The field positions are R50's,
the spec's decision D1 (log entry 1). -/
def Obligations.BranchTestsMask : Prop :=
  (∀ w : Word, w.extractLsb' 12 4 = 0x0#4 →
    decode w = .br (w.extractLsb' 9 3) ((w.extractLsb' 0 9).signExtend 16)) ∧
  (∀ (nzp : BitVec 3) (off : Word) (s : State), ∃ t, exec (.br nzp off) s = .next t ∧
    t.pc = (if nzp.setWidth 16 &&& s.cond ≠ 0x0000#16 then s.pc + off else s.pc) ∧
    RegsSame s t [] ∧ t.cond = s.cond ∧ OutsideSame s t)

/-- R109, R74: while COND holds no flag, as at reset with COND_RESET = 0x0000 (D5, log entry 3), every BR falls
through; so does a BR with an empty mask in every state. -/
def Obligations.BranchFallsThrough : Prop :=
  (∀ (nzp : BitVec 3) (off : Word) (s : State), s.cond = 0x0000#16 → exec (.br nzp off) s = .next s) ∧
    (∀ (off : Word) (s : State), exec (.br 0#3 off) s = .next s)

/-- R75: PC takes the value held in BaseR. The field positions are R50's, and the unused bits are ignored, the spec's
decisions D1 and D3 (log entries 1, 18). -/
def Obligations.JumpTakesRegisterValue : Prop :=
  (∀ w : Word, w.extractLsb' 12 4 = 0xC#4 → decode w = .jmp (w.extractLsb' 6 3)) ∧
  (∀ (baseR : RegIdx) (s : State), ∃ t, exec (.jmp baseR) s = .next t ∧ t.pc = s.reg baseR ∧
    RegsSame s t [] ∧ t.cond = s.cond ∧ OutsideSame s t)

/-- R76: R7 takes the incremented PC, and the target is relative to that same value. The field positions are R50's, the
spec's decision D1 (log entry 1). -/
def Obligations.JsrLinksAndJumps : Prop :=
  (∀ w : Word, w.extractLsb' 12 4 = 0x4#4 → w.getLsbD 11 = true →
    decode w = .jsr ((w.extractLsb' 0 11).signExtend 16)) ∧
  (∀ (off : Word) (s : State), ∃ t, exec (.jsr off) s = .next t ∧ t.pc = s.pc + off ∧ t.reg 7#3 = s.pc ∧
    RegsSame s t [7#3] ∧ t.cond = s.cond ∧ OutsideSame s t)

/-- R77: the link, then the value in BaseR. That `JSRR R7` reads the new R7 is the spec's decision D14 (log
entry 17); the field positions are R50's, decision D1 (log entry 1), and the unused bits are ignored, D3 (log
entry 18). -/
def Obligations.JsrrLinksThenJumps : Prop :=
  (∀ w : Word, w.extractLsb' 12 4 = 0x4#4 → w.getLsbD 11 = false → decode w = .jsrr (w.extractLsb' 6 3)) ∧
  (∀ (baseR : RegIdx) (s : State), ∃ t, exec (.jsrr baseR) s = .next t ∧
    t.pc = (if baseR = 7#3 then s.pc else s.reg baseR) ∧ t.reg 7#3 = s.pc ∧
    RegsSame s t [7#3] ∧ t.cond = s.cond ∧ OutsideSame s t)

/-- R17 and the source's example: after a JSR, in any later state whose R7 is what the JSR left, RET continues at
the instruction after the JSR. -/
def Obligations.RetReturnsAfterJsr : Prop :=
  ∀ (off : Word) (s t u : State), exec (.jsr off) s = .next t → u.reg 7#3 = t.reg 7#3 →
    ∃ v, exec (decode 0xC1C0#16) u = .next v ∧ v.pc = s.pc

/-! ### Loads and stores -/

/-- R80: DR takes the word `MemRead` gives at `PC + offset`. The field positions are R50's, the spec's decision D1 (log
entry 1). -/
def Obligations.LdLoads : Prop :=
  (∀ w : Word, w.extractLsb' 12 4 = 0x2#4 →
    decode w = .ld (w.extractLsb' 9 3) ((w.extractLsb' 0 9).signExtend 16)) ∧
  (∀ (dr : RegIdx) (off : Word) (s : State), ∃ t, exec (.ld dr off) s = .next t ∧ LoadedFrom s s t dr (s.pc + off))

/-- R81: two reads in order, pointer then data, either of which may poll; where the pointer's address is no device
register, the pointer read changes nothing. The field positions are R50's, the spec's decision D1 (log entry 1). -/
def Obligations.LdiLoadsThroughPointer : Prop :=
  (∀ w : Word, w.extractLsb' 12 4 = 0xA#4 →
    decode w = .ldi (w.extractLsb' 9 3) ((w.extractLsb' 0 9).signExtend 16)) ∧
  (∀ (dr : RegIdx) (off : Word) (s : State), ∃ t, exec (.ldi dr off) s = .next t ∧
    LoadedFrom s (s.memRead (s.pc + off)).2 t dr (s.memRead (s.pc + off)).1 ∧
    (s.pc + off ≠ s.cfg.kbsrAddr → LoadedFrom s s t dr (s.peek (s.pc + off))))

/-- R82: DR takes the word at the value in BaseR plus the offset; BaseR is read before DR is written. The field
positions are R50's, the spec's decision D1 (log entry 1). -/
def Obligations.LdrLoadsFromBase : Prop :=
  (∀ w : Word, w.extractLsb' 12 4 = 0x6#4 →
    decode w = .ldr (w.extractLsb' 9 3) (w.extractLsb' 6 3) ((w.extractLsb' 0 6).signExtend 16)) ∧
  (∀ (dr baseR : RegIdx) (off : Word) (s : State), ∃ t, exec (.ldr dr baseR off) s = .next t ∧
    LoadedFrom s s t dr (s.reg baseR + off))

/-- R83: the address itself, with its flag; no memory access, so no poll. The field positions are R50's, the spec's
decision D1 (log entry 1). -/
def Obligations.LeaWritesAddress : Prop :=
  (∀ w : Word, w.extractLsb' 12 4 = 0xE#4 →
    decode w = .lea (w.extractLsb' 9 3) ((w.extractLsb' 0 9).signExtend 16)) ∧
  (∀ (dr : RegIdx) (off : Word) (s : State), ∃ t, exec (.lea dr off) s = .next t ∧
    ResultIn s t dr (s.pc + off) ∧ OutsideSame s t)

/-- R85: the word of SR at `PC + offset`, every other word as before. The field positions are R50's, the spec's decision
D1 (log entry 1). -/
def Obligations.StStores : Prop :=
  (∀ w : Word, w.extractLsb' 12 4 = 0x3#4 →
    decode w = .st (w.extractLsb' 9 3) ((w.extractLsb' 0 9).signExtend 16)) ∧
  (∀ (sr : RegIdx) (off : Word) (s : State), ∃ t, exec (.st sr off) s = .next t ∧
    StoredAt s s t (s.pc + off) (s.reg sr))

/-- R86: the pointer read, which may poll, then the store through it. The field positions are R50's, the spec's decision
D1 (log entry 1). -/
def Obligations.StiStoresThroughPointer : Prop :=
  (∀ w : Word, w.extractLsb' 12 4 = 0xB#4 →
    decode w = .sti (w.extractLsb' 9 3) ((w.extractLsb' 0 9).signExtend 16)) ∧
  (∀ (sr : RegIdx) (off : Word) (s : State), ∃ t, exec (.sti sr off) s = .next t ∧
    StoredAt s (s.memRead (s.pc + off)).2 t (s.memRead (s.pc + off)).1 (s.reg sr) ∧
    (s.pc + off ≠ s.cfg.kbsrAddr → StoredAt s s t (s.peek (s.pc + off)) (s.reg sr)))

/-- R87: the word of SR at the value in BaseR plus the offset. The field positions are R50's, the spec's decision D1 (log
entry 1). -/
def Obligations.StrStoresAtBase : Prop :=
  (∀ w : Word, w.extractLsb' 12 4 = 0x7#4 →
    decode w = .str (w.extractLsb' 9 3) (w.extractLsb' 6 3) ((w.extractLsb' 0 6).signExtend 16)) ∧
  (∀ (sr baseR : RegIdx) (off : Word) (s : State), ∃ t, exec (.str sr baseR off) s = .next t ∧
    StoredAt s s t (s.reg baseR + off) (s.reg sr))

/-! ### TRAP and the reserved opcodes -/

/-- R90's default table (the spec's decision D12, log entry 6), and the word of TRAP (R88; field position and unused bits
by R50 and R56, decisions D1 and D3, log entries 1, 18): which vector reaches
which service after reset, and that every other vector reaches none. -/
def Obligations.DefaultVectors : Prop :=
  (∀ w : Word, w.extractLsb' 12 4 = 0xF#4 → decode w = .trap ((w.extractLsb' 0 8).setWidth 16)) ∧
  State.reset.service 0x20 = .getc ∧ State.reset.service 0x21 = .out ∧ State.reset.service 0x22 = .puts ∧
  State.reset.service 0x23 = .inp ∧ State.reset.service 0x24 = .putsp ∧ State.reset.service 0x25 = .halt ∧
  (∀ v : Word, v.toNat < 0x20 ∨ 0x25 < v.toNat → State.reset.service v = .unknown)

/-- R88, R90 (decisions D10 to D12, log entries 5, 6): GETC and IN with the character the console gives. R0 takes it,
COND its flag, R7 the link; IN prompts and echoes. -/
def Obligations.TrapInputServices : Prop :=
  ∀ (v : Word) (s : State) (k : Word), (s.service v = .getc ∨ s.service v = .inp) → s.charAnswer = some k →
    ∃ t, exec (.trap v) s = .next t ∧ t.reg 0#3 = k ∧ t.cond = flagFor k ∧ t.reg 7#3 = linkedR7 s ∧
      RegsSame s t [0#3, 7#3] ∧ t.pc = s.pc ∧ MemSame s t [] ∧ t.keyboard = s.keyboard ∧ EngineSame s t ∧
      t.consoleIn = { answers := s.consoleIn.answers.tail, draws := s.consoleIn.draws + 1 } ∧
      t.consoleOut = s.consoleOut ++ (if s.service v = .inp then [.prompt, .echo k] else []) ∧ t.services = s.services

/-- R88, R90 (decisions D10 to D12, log entries 5, 6): OUT writes the low half of R0 to the console, a vector with no
service nothing; of the CORE only the link changes. -/
def Obligations.TrapOutAndUnknown : Prop :=
  ∀ (v : Word) (s : State), (s.service v = .out ∨ s.service v = .unknown) →
    ∃ t, exec (.trap v) s = .next t ∧ t.reg 7#3 = linkedR7 s ∧ RegsSame s t [7#3] ∧ t.pc = s.pc ∧ t.cond = s.cond ∧
      MemSame s t [] ∧ t.keyboard = s.keyboard ∧ EngineSame s t ∧ t.consoleIn = s.consoleIn ∧
      t.consoleOut = s.consoleOut ++ (if s.service v = .out then [.char ((s.reg 0#3).extractLsb' 0 8)] else []) ∧
      t.services = s.services

/-- R88, R90 (decisions D10 to D12, log entries 5, 6, 12): PUTS and PUTSP write the string at R0, `n` words long, up to
its first 0x0000: PUTS each low half, PUTSP each low half and then the high half if it is not zero. -/
def Obligations.TrapStringServices : Prop :=
  ∀ (v : Word) (s : State) (n : Nat), (s.service v = .puts ∨ s.service v = .putsp) → n < 65536 →
    (∀ j < n, s.peek (s.reg 0#3 + BitVec.ofNat 16 j) ≠ 0x0000#16) → s.peek (s.reg 0#3 + BitVec.ofNat 16 n) = 0x0000#16 →
    ∃ t, exec (.trap v) s = .next t ∧ t.reg 7#3 = linkedR7 s ∧ RegsSame s t [7#3] ∧ t.pc = s.pc ∧ t.cond = s.cond ∧
      MemSame s t [] ∧ t.keyboard = s.keyboard ∧ EngineSame s t ∧ t.consoleIn = s.consoleIn ∧ t.services = s.services ∧
      t.consoleOut = s.consoleOut ++ (List.range n).flatMap (fun j =>
        let w := s.peek (s.reg 0#3 + BitVec.ofNat 16 j)
        if s.service v = .putsp ∧ w.extractLsb' 8 8 ≠ 0#8
        then [.char (w.extractLsb' 0 8), .char (w.extractLsb' 8 8)]
        else [.char (w.extractLsb' 0 8)])

/-- R88, R89, R90 (decisions D10 to D12, log entries 5, 6): HALT halts the engine with PC after the TRAP and R7 linked. -/
def Obligations.TrapHaltHalts : Prop :=
  ∀ (v : Word) (s : State), s.service v = .halt →
    ∃ t, exec (.trap v) s = .next t ∧ t.run = .halted ∧ t.reg 7#3 = linkedR7 s ∧ RegsSame s t [7#3] ∧ t.pc = s.pc ∧
      t.cond = s.cond ∧ MemSame s t [] ∧ t.keyboard = s.keyboard ∧ t.cfg = s.cfg ∧ t.host = s.host ∧
      t.consoleIn = s.consoleIn ∧ t.services = s.services ∧ t.consoleOut = s.consoleOut ++ [.haltMessage]

/-- R7, R88, R89, R90, R98 (decisions D10 to D12, log entries 5, 6, 29): TRAP beyond the default services. An external
service whose characters all come and whose relation resumes or halts sees the state after the link write; of the CORE
it changes only the registers its row lists, COND where its row says so, and with `halt` the engine's run state; what it
does is the relation's, a free value. And under ANY `TRAP_SERVICE` given as an argument, a TRAP's step completes with
the relation's outcome for the vector and the state after the link write, every other instruction does what it does
without it, and the machine's own step is the one under the relation of its parameters. -/
def Obligations.TrapUnderAnyService : Prop :=
  (∀ (v : Word) (s : State) (ws : List RegIdx) (wc : Bool), s.service v = .external ws wc →
    (∀ k < (s.trapReply v).reads, s.charAhead k ≠ none) → (s.trapReply v).outcome ≠ .never →
    ∃ t, exec (.trap v) s = .next t ∧
      (∀ q : RegIdx, t.reg q =
        if q ∈ ws then (s.trapReply v).regs[q.toNat]'q.isLt else if q = 7#3 then linkedR7 s else s.reg q) ∧
      t.cond = (if wc = true then (s.trapReply v).cond.setWidth 16 else s.cond) ∧ t.pc = s.pc ∧ MemSame s t [] ∧
      t.run = (if (s.trapReply v).outcome = .halt then .halted else s.run) ∧ t.keyboard = s.keyboard ∧ t.cfg = s.cfg ∧
      t.host = s.host ∧
      t.consoleIn =
        { answers := s.consoleIn.answers.drop (s.trapReply v).reads, draws := s.consoleIn.draws + (s.trapReply v).reads } ∧
      t.consoleOut = s.consoleOut ++ (s.trapReply v).output ∧
      t.services = { answers := s.services.answers.tail, draws := s.services.draws + 1 }) ∧
  (∀ (service : TrapService) (v : Word) (s : State),
    (∀ t, service v s.trapEntry = .resume t → execUnder service (.trap v) s = .next t) ∧
    (∀ t, service v s.trapEntry = .halt t → execUnder service (.trap v) s = .next { t with run := .halted }) ∧
    (∀ why, service v s.trapEntry = .never why → execUnder service (.trap v) s = .fault why)) ∧
  (∀ (service : TrapService) (i : Instr) (s : State), (∀ v, i ≠ .trap v) → execUnder service i s = exec i s) ∧
  (∀ s : State, stepUnder tableService s = step s)

/-- R90's contract (decisions D10, D12, log entries 6, 26): whatever the service, memory, PC, the keyboard, the
parameters and the host's decisions are as before; of the registers only R7 where TRAP links and those the service's row
lets it write may differ; COND changes only under GETC and IN, to R0's flag, and under an external service whose row says
that it may write COND. Every table of parameters gives a relation that keeps the contract, and under ANY relation that
keeps it a TRAP leaves memory, PC, the keyboard, the parameters and the host's decisions as they are. -/
def Obligations.TrapKeepsContract : Prop :=
  (∀ (v : Word) (s t : State), exec (.trap v) s = .next t →
    MemSame s t [] ∧ t.pc = s.pc ∧ RegsSame s t (mayWrite s (.trap v)) ∧ t.keyboard = s.keyboard ∧ t.cfg = s.cfg ∧
      t.host = s.host ∧
      (t.cond = s.cond ∨ ((s.service v = .getc ∨ s.service v = .inp) ∧ t.cond = flagFor (t.reg 0#3)) ∨
        ∃ ws, s.service v = .external ws true)) ∧
  ServiceContract tableService ∧
  (∀ service : TrapService, ServiceContract service → ∀ (v : Word) (s t : State),
    execUnder service (.trap v) s = .next t →
    MemSame s t [] ∧ t.pc = s.pc ∧ t.keyboard = s.keyboard ∧ t.cfg = s.cfg ∧ t.host = s.host)

/-- R57, R91, R92, R94 (the policy is the spec's decision D4, log entries 4, 15; the opcodes' values are R49's, D1, log
entry 1): under `inert` a reserved opcode changes
nothing; under `fault` it enters the faulted state with the fetch address and the word as its record, PC keeping the
fetch's increment, and changes nothing else. -/
def Obligations.ReservedOpcodesFollowPolicy : Prop :=
  (∀ w : Word, (w.extractLsb' 12 4 = 0x8#4 → decode w = .rti (w.extractLsb' 0 12)) ∧
    (w.extractLsb' 12 4 = 0xD#4 → decode w = .res (w.extractLsb' 0 12))) ∧
  (∀ (x : BitVec 12) (s : State), s.cfg.illegalPolicy = .inert →
    exec (.rti x) s = .next s ∧ exec (.res x) s = .next s) ∧
  (∀ (x : BitVec 12) (s : State), s.cfg.illegalPolicy = .fault →
    exec (.rti x) s = .next { s with run := .faulted (s.pc - 1) (0x8000#16 ||| x.setWidth 16) } ∧
    exec (.res x) s = .next { s with run := .faulted (s.pc - 1) (0xD000#16 ||| x.setWidth 16) })

/-- R89, R93: no instruction raises an exception and none is refused. Every instruction answers a next state, but for a
TRAP whose service never returns, and that one has no next state (log entries 10, 11, 29). -/
def Obligations.EveryInstructionCompletes : Prop :=
  (∀ (i : Instr) (s : State), (∃ t, exec i s = .next t) ∨ ∃ v, i = .trap v ∧ TrapNeverReturns s v) ∧
    (∀ (v : Word) (s : State), TrapNeverReturns s v → ∃ f, exec (.trap v) s = .fault f)

/-! ### Rules of the whole machine -/

/-- R22: each flag-setting instruction leaves the flag of its DR, after DR is written; every other instruction but
TRAP, whose service may write it, leaves COND unchanged. -/
def Obligations.CondChangesOnlyByFlagSetters : Prop :=
  ∀ (i : Instr) (s t : State), exec i s = .next t →
    (∀ dr, flagDest i = some dr → t.cond = flagFor (t.reg dr)) ∧
    (flagDest i = none → t.cond ≠ s.cond → ∃ v, i = .trap v)

/-- R20: after a flag-setting instruction COND holds exactly one of its three values. -/
def Obligations.ExactlyOneFlagAfterSetting : Prop :=
  ∀ (i : Instr) (s t : State), flagDest i ≠ none → exec i s = .next t →
    t.cond = 0x0001#16 ∨ t.cond = 0x0002#16 ∨ t.cond = 0x0004#16

/-- R23: only BR reads COND. For every other instruction, changing COND beforehand changes nothing but COND after, and
COND after is either what it is without the change or the changed value, left as it was. A trap service outside the CORE
may read COND (R90): for a TRAP to an external one, provided that the service does the same. -/
def Obligations.OnlyBranchReadsCond : Prop :=
  ∀ (i : Instr) (s t : State) (c : Word), (∀ nzp off, i ≠ .br nzp off) →
    (∀ v ws wc, i = .trap v → s.service v = .external ws wc →
      ({ s with cond := c } : State).trapReply v = s.trapReply v) →
    exec i s = .next t →
    ∃ c', exec i { s with cond := c } = .next { t with cond := c' } ∧ (c' = t.cond ∨ (c' = c ∧ t.cond = s.cond))

/-- R16 (for TRAP the spec's decisions D11, D12, log entries 5, 6): an instruction writes no general register but those its
rule names. -/
def Obligations.RegistersWrittenAsListed : Prop :=
  ∀ (i : Instr) (s t : State), exec i s = .next t → RegsSame s t (mayWrite s i)

/-- R18: after the fetch only BR, JMP, JSR and JSRR write PC. -/
def Obligations.PcWrittenByControlOnly : Prop :=
  ∀ (i : Instr) (s t : State), exec i s = .next t → t.pc ≠ s.pc →
    (∃ nzp off, i = .br nzp off ∧ nzp.setWidth 16 &&& s.cond ≠ 0x0000#16) ∨ (∃ b, i = .jmp b) ∨ (∃ off, i = .jsr off) ∨
      (∃ b, i = .jsrr b)

/-- R40: a word of memory changes only because a store writes it, or because the keyboard was polled and it is one of the
two device registers. -/
def Obligations.MemoryChangesOnlyByStoreOrPoll : Prop :=
  ∀ (i : Instr) (s t : State) (a : Word), exec i s = .next t → t.peek a ≠ s.peek a →
    storeAddr s i = some a ∨
      (s.keyboard.draws < t.keyboard.draws ∧ (a = s.cfg.kbsrAddr ∨ a = s.cfg.kbdrAddr))

/-- R67: a step that asks neither the keyboard nor the console nor an external service is fixed by the rest of the
state: with any other answers to come it does the same. -/
def Obligations.OnlyOraclesAreFree : Prop :=
  ∀ (s t : State) (kb con : Channel (Option Word)) (svc : Channel ServiceReply), step s = .next t →
    t.keyboard = s.keyboard → t.consoleIn = s.consoleIn → t.services = s.services →
    step { s with keyboard := kb, consoleIn := con, services := svc } =
      .next { t with keyboard := kb, consoleIn := con, services := svc }

/-! ### The engine -/

/-- R61, R64: away from the keyboard's status register, a RUNNING state that the host does not stop executes the
instruction stored at PC, in the state whose PC is one further (mod 2^16) and whose host has been asked once. How the
host is asked is the model's own (log entry 14). -/
def Obligations.StepRunsDecodedInstruction : Prop :=
  ∀ s : State, s.run = .running → s.hostStops = false → s.pc ≠ s.cfg.kbsrAddr →
    step s = exec (decode (s.peek s.pc))
      { s with pc := s.pc + 1, host := { answers := s.host.answers.tail, draws := s.host.draws + 1 } }

/-- R61 (decision D9, log entry 19): a fetch at the keyboard's status register polls once, and the word fetched is the
poll's. The state in which it executes is given whole: PC one further, the keyboard and the host asked once, the device
registers' words as the poll leaves them (R38, D8, log entries 7, 8, 28), everything else as before. -/
def Obligations.FetchAtStatusPolls : Prop :=
  ∀ s : State, s.run = .running → s.hostStops = false → s.pc = s.cfg.kbsrAddr →
    ∃ u w, step s = exec (decode w) u ∧
      ((∃ k, s.keyAnswer = some k ∧ w = s.cfg.kbsrReady ∧
          (s.cfg.kbdrAddr ≠ s.cfg.kbsrAddr → u.peek s.cfg.kbdrAddr = k) ∧
          MemSame s u [s.cfg.kbsrAddr, s.cfg.kbdrAddr]) ∨
        (s.keyAnswer = none ∧ w = 0x0000#16 ∧ MemSame s u [s.cfg.kbsrAddr])) ∧
      u.peek s.cfg.kbsrAddr = w ∧ u.pc = s.pc + 1 ∧ RegsSame s u [] ∧ u.cond = s.cond ∧
      u.keyboard = { answers := s.keyboard.answers.tail, draws := s.keyboard.draws + 1 } ∧
      u.run = s.run ∧ u.cfg = s.cfg ∧ u.host = { answers := s.host.answers.tail, draws := s.host.draws + 1 } ∧
      ConsoleSame s u

/-- R46: a store is seen by the very next fetch, whatever address it wrote. -/
def Obligations.StoreSeenByNextFetch : Prop :=
  ∀ (i : Instr) (s t : State) (a : Word), storeAddr s i = some a → exec i s = .next t → t.pc = a →
    a ≠ t.cfg.kbsrAddr → t.run = .running → t.hostStops = false →
    ∃ sr, (∃ off, i = .st sr off ∨ i = .sti sr off ∨ ∃ b, i = .str sr b off) ∧
      step t = exec (decode (s.reg sr))
        { t with pc := a + 1, host := { answers := t.host.answers.tail, draws := t.host.draws + 1 } }

/-- R66, R94, R105: a state that is not RUNNING takes no step: any number of steps leaves it as it is. -/
def Obligations.StoppedStays : Prop :=
  ∀ (s : State) (k : Nat), s.run ≠ .running → core.run k s = .next s

/-- R96, R97: at a boundary the host's stop is taken before the fetch, sets HALTED and leaves everything else as it
is; after it the engine takes no step. When the host stops is a free value (log entry 14). -/
def Obligations.HostStopHalts : Prop :=
  ∀ s : State, s.run = .running → s.hostStops = true →
    step s = .next { s with run := .halted } ∧ ∀ k, core.run (k + 1) s = .next { s with run := .halted }

/-- R96: a stop is admitted at every boundary: from a state whose host lets `n` boundaries pass and then stops, if `n`
steps leave it RUNNING, the next one halts it there and changes nothing else. That the host's decisions stand in the
state is the model's own (log entry 14). So too in every run that starts at reset, after a boot (R68): where `n` steps
leave it RUNNING, the next one halts it there if the host stops at boundary number `n`, a free value, and else runs the
word that the fetch gives. -/
def Obligations.HostStopAtEveryBoundary : Prop :=
  (∀ (n : Nat) (s t : State) (rest : List Bool), s.host.answers = List.replicate n false ++ true :: rest →
    core.run n s = .next t → t.run = .running → core.run (n + 1) s = .next { t with run := .halted }) ∧
  (∀ (cfg : Config) (images : List (List Word)) (s t : State) (n : Nat), boot cfg images = some s →
    core.run n s = .next t → t.run = .running →
    core.run (n + 1) s =
      if Config.hostStops n = true then .next { t with run := .halted }
      else exec (decode t.passBoundary.fetch.1) t.passBoundary.fetch.2)

/-- R26: HALTED is reached only by TRAP's halt service, or an external service that halts (R89, log entry 29), or by a
host stop. -/
def Obligations.HaltedOnlyByServiceOrHost : Prop :=
  ∀ s t : State, s.run = .running → step s = .next t → t.run = .halted →
    s.hostStops = true ∨
      ∃ v, decode (s.memRead s.pc).1 = .trap v ∧
        (s.service v = .halt ∨
          ((∃ ws wc, s.service v = .external ws wc) ∧ (s.passBoundary.fetch.2.trapReply v).outcome = .halt))

/-- R94 (the strict variant is the spec's decision D4, log entries 4, 15): the faulted state is reached only under `fault`,
by a word whose opcode is 1000 or 1101; its record is the fetch address and that word, and PC is one past it. -/
def Obligations.FaultedOnlyByReservedOpcode : Prop :=
  ∀ (s t : State) (p w : Word), s.run = .running → step s = .next t → t.run = .faulted p w →
    s.cfg.illegalPolicy = .fault ∧ p = s.pc ∧ w = (s.memRead s.pc).1 ∧ t.pc = s.pc + 1 ∧
      (w.extractLsb' 12 4 = 0x8#4 ∨ w.extractLsb' 12 4 = 0xD#4) ∧ RegsSame s t [] ∧ t.cond = s.cond

/-- R7: no step changes the parameters, and no step un-stops the engine. -/
def Obligations.StepKeepsParameters : Prop :=
  ∀ s t : State, step s = .next t → t.cfg = s.cfg ∧ (s.run ≠ .running → t.run = s.run)

/-- The invariant holds after reset, for every COND_RESET whose reserved bits are zero. -/
def Obligations.ResetMeetsInvariant : Prop :=
  State.reset.Inv ∧ ∀ cfg : Config, cfg.condReset &&& 0xFFF8#16 = 0x0000#16 → (State.resetWith cfg).Inv

/-- R19 and the memory's canonical form: every step from a state that meets the invariant leaves one that does, under the
machine's own services and under any other `TRAP_SERVICE` that keeps R90's contract. -/
def Obligations.StepKeepsInvariant : Prop :=
  (∀ s t : State, s.Inv → step s = .next t → t.Inv) ∧
  (∀ service : TrapService, ServiceContract service → ∀ s t : State, s.Inv → stepUnder service s = .next t → t.Inv)
end

