-- ==== Sys2Proof/Laws/Bits.lean ====
section
/-! SUPPORT. Fields of words built from fields, and extensions of fields. -/

namespace Sys2Proof.Machine

@[simp] theorem bit_or (a b : Word) (i : Nat) : bit (a ||| b) i = (bit a i || bit b i) := by simp [bit]

@[simp] theorem bit_put {n : Nat} (v : BitVec n) (lo i : Nat) (h : i < 16) :
    bit (put v lo) i = (!decide (i < lo) && v.getLsbD (i - lo)) := by
  simp [bit, put, h]

@[simp] theorem field_or (a b : Word) (lo n : Nat) : field (a ||| b) lo n = field a lo n ||| field b lo n := by
  apply BitVec.eq_of_getLsbD_eq
  intro j hj
  simp [field, hj]

/-- A field reads back what was put there. -/
@[simp] theorem field_put_same {n : Nat} (v : BitVec n) (lo : Nat) (h : lo + n ≤ 16) : field (put v lo) lo n = v := by
  apply BitVec.eq_of_getLsbD_eq
  intro j hj
  have h1 : lo + j < 16 := by omega
  have h2 : ¬ lo + j < lo := by omega
  simp [field, put, hj, h1]

/-- A field below another's place is 0. -/
theorem field_put_below {m n : Nat} (v : BitVec m) (lo lo' : Nat) (h : lo + n ≤ lo') : field (put v lo') lo n = 0#n := by
  apply BitVec.eq_of_getLsbD_eq
  intro j hj
  have h2 : lo + j < lo' := by omega
  simp [field, put, h2]

/-- A field above another's bits is 0. -/
theorem field_put_above {m n : Nat} (v : BitVec m) (lo lo' : Nat) (h : lo' + m ≤ lo) : field (put v lo') lo n = 0#n := by
  apply BitVec.eq_of_getLsbD_eq
  intro j hj
  have h2 : v.getLsbD (lo + j - lo') = false := BitVec.getLsbD_of_ge _ _ (by omega)
  simp [field, put, h2]

/-- Cutting an extended field back to its width gives the field. -/
@[simp] theorem lowBits_sext {n : Nat} (v : BitVec n) (h : n ≤ 16) : lowBits n (sext v) = v := by
  apply BitVec.eq_of_getLsbD_eq
  intro j hj
  have : j < 16 := by omega
  rw [lowBits, sext, BitVec.getLsbD_setWidth, BitVec.getLsbD_signExtend]
  simp [hj, this]

@[simp] theorem lowBits_zext {n : Nat} (v : BitVec n) (h : n ≤ 16) : lowBits n (zext v) = v := by
  apply BitVec.eq_of_getLsbD_eq
  intro j hj
  have : j < 16 := by omega
  simp [lowBits, zext, hj, this]

end Sys2Proof.Machine
end

