-- ==== Sys2Proof/Laws/State.lean ====
section
/-! SUPPORT. One lemma per field per update of State, and the accessors over every update, so that no later
proof unfolds a record update. -/

namespace Sys2Proof.Machine

/-! ### setReg -/

@[simp] theorem State.setReg_pc (s : State) (r : RegIdx) (v : Word) : (s.setReg r v).pc = s.pc := rfl
@[simp] theorem State.setReg_cond (s : State) (r : RegIdx) (v : Word) : (s.setReg r v).cond = s.cond := rfl
@[simp] theorem State.setReg_mem (s : State) (r : RegIdx) (v : Word) : (s.setReg r v).mem = s.mem := rfl
@[simp] theorem State.setReg_run (s : State) (r : RegIdx) (v : Word) : (s.setReg r v).run = s.run := rfl
@[simp] theorem State.setReg_cfg (s : State) (r : RegIdx) (v : Word) : (s.setReg r v).cfg = s.cfg := rfl
@[simp] theorem State.setReg_keyboard (s : State) (r : RegIdx) (v : Word) : (s.setReg r v).keyboard = s.keyboard := rfl
@[simp] theorem State.setReg_consoleIn (s : State) (r : RegIdx) (v : Word) : (s.setReg r v).consoleIn = s.consoleIn := rfl
@[simp] theorem State.setReg_consoleOut (s : State) (r : RegIdx) (v : Word) : (s.setReg r v).consoleOut = s.consoleOut := rfl
@[simp] theorem State.setReg_host (s : State) (r : RegIdx) (v : Word) : (s.setReg r v).host = s.host := rfl
@[simp] theorem State.setReg_services (s : State) (r : RegIdx) (v : Word) : (s.setReg r v).services = s.services := rfl
@[simp] theorem State.setReg_peek (s : State) (r : RegIdx) (v : Word) (b : Word) : (s.setReg r v).peek b = s.peek b := rfl
@[simp] theorem State.setReg_keyAnswer (s : State) (r : RegIdx) (v : Word) : (s.setReg r v).keyAnswer = s.keyAnswer := rfl
@[simp] theorem State.setReg_charAnswer (s : State) (r : RegIdx) (v : Word) : (s.setReg r v).charAnswer = s.charAnswer := rfl

/-! ### setPc -/

@[simp] theorem State.setPc_regs (s : State) (v : Word) : (s.setPc v).regs = s.regs := rfl
@[simp] theorem State.setPc_pc (s : State) (v : Word) : (s.setPc v).pc = v := rfl
@[simp] theorem State.setPc_cond (s : State) (v : Word) : (s.setPc v).cond = s.cond := rfl
@[simp] theorem State.setPc_mem (s : State) (v : Word) : (s.setPc v).mem = s.mem := rfl
@[simp] theorem State.setPc_run (s : State) (v : Word) : (s.setPc v).run = s.run := rfl
@[simp] theorem State.setPc_cfg (s : State) (v : Word) : (s.setPc v).cfg = s.cfg := rfl
@[simp] theorem State.setPc_keyboard (s : State) (v : Word) : (s.setPc v).keyboard = s.keyboard := rfl
@[simp] theorem State.setPc_consoleIn (s : State) (v : Word) : (s.setPc v).consoleIn = s.consoleIn := rfl
@[simp] theorem State.setPc_consoleOut (s : State) (v : Word) : (s.setPc v).consoleOut = s.consoleOut := rfl
@[simp] theorem State.setPc_host (s : State) (v : Word) : (s.setPc v).host = s.host := rfl
@[simp] theorem State.setPc_services (s : State) (v : Word) : (s.setPc v).services = s.services := rfl
@[simp] theorem State.setPc_reg (s : State) (v : Word) (q : RegIdx) : (s.setPc v).reg q = s.reg q := rfl
@[simp] theorem State.setPc_peek (s : State) (v : Word) (b : Word) : (s.setPc v).peek b = s.peek b := rfl
@[simp] theorem State.setPc_keyAnswer (s : State) (v : Word) : (s.setPc v).keyAnswer = s.keyAnswer := rfl
@[simp] theorem State.setPc_charAnswer (s : State) (v : Word) : (s.setPc v).charAnswer = s.charAnswer := rfl

/-! ### poke -/

@[simp] theorem State.poke_regs (s : State) (a v : Word) : (s.poke a v).regs = s.regs := rfl
@[simp] theorem State.poke_pc (s : State) (a v : Word) : (s.poke a v).pc = s.pc := rfl
@[simp] theorem State.poke_cond (s : State) (a v : Word) : (s.poke a v).cond = s.cond := rfl
@[simp] theorem State.poke_run (s : State) (a v : Word) : (s.poke a v).run = s.run := rfl
@[simp] theorem State.poke_cfg (s : State) (a v : Word) : (s.poke a v).cfg = s.cfg := rfl
@[simp] theorem State.poke_keyboard (s : State) (a v : Word) : (s.poke a v).keyboard = s.keyboard := rfl
@[simp] theorem State.poke_consoleIn (s : State) (a v : Word) : (s.poke a v).consoleIn = s.consoleIn := rfl
@[simp] theorem State.poke_consoleOut (s : State) (a v : Word) : (s.poke a v).consoleOut = s.consoleOut := rfl
@[simp] theorem State.poke_host (s : State) (a v : Word) : (s.poke a v).host = s.host := rfl
@[simp] theorem State.poke_services (s : State) (a v : Word) : (s.poke a v).services = s.services := rfl
@[simp] theorem State.poke_reg (s : State) (a v : Word) (q : RegIdx) : (s.poke a v).reg q = s.reg q := rfl
@[simp] theorem State.poke_keyAnswer (s : State) (a v : Word) : (s.poke a v).keyAnswer = s.keyAnswer := rfl
@[simp] theorem State.poke_charAnswer (s : State) (a v : Word) : (s.poke a v).charAnswer = s.charAnswer := rfl

/-! ### memWrite -/

@[simp] theorem State.memWrite_regs (s : State) (a v : Word) : (s.memWrite a v).regs = s.regs := rfl
@[simp] theorem State.memWrite_pc (s : State) (a v : Word) : (s.memWrite a v).pc = s.pc := rfl
@[simp] theorem State.memWrite_cond (s : State) (a v : Word) : (s.memWrite a v).cond = s.cond := rfl
@[simp] theorem State.memWrite_run (s : State) (a v : Word) : (s.memWrite a v).run = s.run := rfl
@[simp] theorem State.memWrite_cfg (s : State) (a v : Word) : (s.memWrite a v).cfg = s.cfg := rfl
@[simp] theorem State.memWrite_keyboard (s : State) (a v : Word) : (s.memWrite a v).keyboard = s.keyboard := rfl
@[simp] theorem State.memWrite_consoleIn (s : State) (a v : Word) : (s.memWrite a v).consoleIn = s.consoleIn := rfl
@[simp] theorem State.memWrite_consoleOut (s : State) (a v : Word) : (s.memWrite a v).consoleOut = s.consoleOut := rfl
@[simp] theorem State.memWrite_host (s : State) (a v : Word) : (s.memWrite a v).host = s.host := rfl
@[simp] theorem State.memWrite_services (s : State) (a v : Word) : (s.memWrite a v).services = s.services := rfl
@[simp] theorem State.memWrite_reg (s : State) (a v : Word) (q : RegIdx) : (s.memWrite a v).reg q = s.reg q := rfl
@[simp] theorem State.memWrite_keyAnswer (s : State) (a v : Word) : (s.memWrite a v).keyAnswer = s.keyAnswer := rfl
@[simp] theorem State.memWrite_charAnswer (s : State) (a v : Word) : (s.memWrite a v).charAnswer = s.charAnswer := rfl

/-! ### askKeyboard -/

@[simp] theorem State.askKeyboard_regs (s : State) : (s.askKeyboard).regs = s.regs := rfl
@[simp] theorem State.askKeyboard_pc (s : State) : (s.askKeyboard).pc = s.pc := rfl
@[simp] theorem State.askKeyboard_cond (s : State) : (s.askKeyboard).cond = s.cond := rfl
@[simp] theorem State.askKeyboard_mem (s : State) : (s.askKeyboard).mem = s.mem := rfl
@[simp] theorem State.askKeyboard_run (s : State) : (s.askKeyboard).run = s.run := rfl
@[simp] theorem State.askKeyboard_cfg (s : State) : (s.askKeyboard).cfg = s.cfg := rfl
@[simp] theorem State.askKeyboard_keyboard (s : State) : (s.askKeyboard).keyboard = s.keyboard.asked := rfl
@[simp] theorem State.askKeyboard_consoleIn (s : State) : (s.askKeyboard).consoleIn = s.consoleIn := rfl
@[simp] theorem State.askKeyboard_consoleOut (s : State) : (s.askKeyboard).consoleOut = s.consoleOut := rfl
@[simp] theorem State.askKeyboard_host (s : State) : (s.askKeyboard).host = s.host := rfl
@[simp] theorem State.askKeyboard_services (s : State) : (s.askKeyboard).services = s.services := rfl
@[simp] theorem State.askKeyboard_reg (s : State) (q : RegIdx) : (s.askKeyboard).reg q = s.reg q := rfl
@[simp] theorem State.askKeyboard_peek (s : State) (b : Word) : (s.askKeyboard).peek b = s.peek b := rfl
@[simp] theorem State.askKeyboard_charAnswer (s : State) : (s.askKeyboard).charAnswer = s.charAnswer := rfl

/-! ### askConsole -/

@[simp] theorem State.askConsole_regs (s : State) : (s.askConsole).regs = s.regs := rfl
@[simp] theorem State.askConsole_pc (s : State) : (s.askConsole).pc = s.pc := rfl
@[simp] theorem State.askConsole_cond (s : State) : (s.askConsole).cond = s.cond := rfl
@[simp] theorem State.askConsole_mem (s : State) : (s.askConsole).mem = s.mem := rfl
@[simp] theorem State.askConsole_run (s : State) : (s.askConsole).run = s.run := rfl
@[simp] theorem State.askConsole_cfg (s : State) : (s.askConsole).cfg = s.cfg := rfl
@[simp] theorem State.askConsole_keyboard (s : State) : (s.askConsole).keyboard = s.keyboard := rfl
@[simp] theorem State.askConsole_consoleIn (s : State) : (s.askConsole).consoleIn = s.consoleIn.asked := rfl
@[simp] theorem State.askConsole_consoleOut (s : State) : (s.askConsole).consoleOut = s.consoleOut := rfl
@[simp] theorem State.askConsole_host (s : State) : (s.askConsole).host = s.host := rfl
@[simp] theorem State.askConsole_services (s : State) : (s.askConsole).services = s.services := rfl
@[simp] theorem State.askConsole_reg (s : State) (q : RegIdx) : (s.askConsole).reg q = s.reg q := rfl
@[simp] theorem State.askConsole_peek (s : State) (b : Word) : (s.askConsole).peek b = s.peek b := rfl
@[simp] theorem State.askConsole_keyAnswer (s : State) : (s.askConsole).keyAnswer = s.keyAnswer := rfl

/-! ### print -/

@[simp] theorem State.print_regs (s : State) (es : List ConsoleEvent) : (s.print es).regs = s.regs := rfl
@[simp] theorem State.print_pc (s : State) (es : List ConsoleEvent) : (s.print es).pc = s.pc := rfl
@[simp] theorem State.print_cond (s : State) (es : List ConsoleEvent) : (s.print es).cond = s.cond := rfl
@[simp] theorem State.print_mem (s : State) (es : List ConsoleEvent) : (s.print es).mem = s.mem := rfl
@[simp] theorem State.print_run (s : State) (es : List ConsoleEvent) : (s.print es).run = s.run := rfl
@[simp] theorem State.print_cfg (s : State) (es : List ConsoleEvent) : (s.print es).cfg = s.cfg := rfl
@[simp] theorem State.print_keyboard (s : State) (es : List ConsoleEvent) : (s.print es).keyboard = s.keyboard := rfl
@[simp] theorem State.print_consoleIn (s : State) (es : List ConsoleEvent) : (s.print es).consoleIn = s.consoleIn := rfl
@[simp] theorem State.print_consoleOut (s : State) (es : List ConsoleEvent) : (s.print es).consoleOut = s.consoleOut ++ es := rfl
@[simp] theorem State.print_host (s : State) (es : List ConsoleEvent) : (s.print es).host = s.host := rfl
@[simp] theorem State.print_services (s : State) (es : List ConsoleEvent) : (s.print es).services = s.services := rfl
@[simp] theorem State.print_reg (s : State) (es : List ConsoleEvent) (q : RegIdx) : (s.print es).reg q = s.reg q := rfl
@[simp] theorem State.print_peek (s : State) (es : List ConsoleEvent) (b : Word) : (s.print es).peek b = s.peek b := rfl
@[simp] theorem State.print_keyAnswer (s : State) (es : List ConsoleEvent) : (s.print es).keyAnswer = s.keyAnswer := rfl
@[simp] theorem State.print_charAnswer (s : State) (es : List ConsoleEvent) : (s.print es).charAnswer = s.charAnswer := rfl

/-! ### setCond -/

@[simp] theorem State.setCond_regs (s : State) (v : Word) : (s.setCond v).regs = s.regs := rfl
@[simp] theorem State.setCond_pc (s : State) (v : Word) : (s.setCond v).pc = s.pc := rfl
@[simp] theorem State.setCond_cond (s : State) (v : Word) : (s.setCond v).cond = v := rfl
@[simp] theorem State.setCond_mem (s : State) (v : Word) : (s.setCond v).mem = s.mem := rfl
@[simp] theorem State.setCond_run (s : State) (v : Word) : (s.setCond v).run = s.run := rfl
@[simp] theorem State.setCond_cfg (s : State) (v : Word) : (s.setCond v).cfg = s.cfg := rfl
@[simp] theorem State.setCond_keyboard (s : State) (v : Word) : (s.setCond v).keyboard = s.keyboard := rfl
@[simp] theorem State.setCond_consoleIn (s : State) (v : Word) : (s.setCond v).consoleIn = s.consoleIn := rfl
@[simp] theorem State.setCond_consoleOut (s : State) (v : Word) : (s.setCond v).consoleOut = s.consoleOut := rfl
@[simp] theorem State.setCond_services (s : State) (v : Word) : (s.setCond v).services = s.services := rfl
@[simp] theorem State.setCond_host (s : State) (v : Word) : (s.setCond v).host = s.host := rfl
@[simp] theorem State.setCond_reg (s : State) (v : Word) (q : RegIdx) : (s.setCond v).reg q = s.reg q := rfl
@[simp] theorem State.setCond_peek (s : State) (v : Word) (b : Word) : (s.setCond v).peek b = s.peek b := rfl
@[simp] theorem State.setCond_keyAnswer (s : State) (v : Word) : (s.setCond v).keyAnswer = s.keyAnswer := rfl
@[simp] theorem State.setCond_charAnswer (s : State) (v : Word) : (s.setCond v).charAnswer = s.charAnswer := rfl
@[simp] theorem State.setCond_charsCome (s : State) (v : Word) (n : Nat) : (s.setCond v).charsCome n = s.charsCome n := rfl

/-! ### askConsoleTimes -/

@[simp] theorem State.askConsoleTimes_regs (s : State) (n : Nat) : (s.askConsoleTimes n).regs = s.regs := rfl
@[simp] theorem State.askConsoleTimes_pc (s : State) (n : Nat) : (s.askConsoleTimes n).pc = s.pc := rfl
@[simp] theorem State.askConsoleTimes_cond (s : State) (n : Nat) : (s.askConsoleTimes n).cond = s.cond := rfl
@[simp] theorem State.askConsoleTimes_mem (s : State) (n : Nat) : (s.askConsoleTimes n).mem = s.mem := rfl
@[simp] theorem State.askConsoleTimes_run (s : State) (n : Nat) : (s.askConsoleTimes n).run = s.run := rfl
@[simp] theorem State.askConsoleTimes_cfg (s : State) (n : Nat) : (s.askConsoleTimes n).cfg = s.cfg := rfl
@[simp] theorem State.askConsoleTimes_keyboard (s : State) (n : Nat) : (s.askConsoleTimes n).keyboard = s.keyboard := rfl
@[simp] theorem State.askConsoleTimes_consoleIn (s : State) (n : Nat) : (s.askConsoleTimes n).consoleIn = s.consoleIn.askedTimes n := rfl
@[simp] theorem State.askConsoleTimes_consoleOut (s : State) (n : Nat) : (s.askConsoleTimes n).consoleOut = s.consoleOut := rfl
@[simp] theorem State.askConsoleTimes_services (s : State) (n : Nat) : (s.askConsoleTimes n).services = s.services := rfl
@[simp] theorem State.askConsoleTimes_host (s : State) (n : Nat) : (s.askConsoleTimes n).host = s.host := rfl
@[simp] theorem State.askConsoleTimes_reg (s : State) (n : Nat) (q : RegIdx) : (s.askConsoleTimes n).reg q = s.reg q := rfl
@[simp] theorem State.askConsoleTimes_peek (s : State) (n : Nat) (b : Word) : (s.askConsoleTimes n).peek b = s.peek b := rfl
@[simp] theorem State.askConsoleTimes_keyAnswer (s : State) (n : Nat) : (s.askConsoleTimes n).keyAnswer = s.keyAnswer := rfl

/-! ### askService -/

@[simp] theorem State.askService_regs (s : State) : (s.askService).regs = s.regs := rfl
@[simp] theorem State.askService_pc (s : State) : (s.askService).pc = s.pc := rfl
@[simp] theorem State.askService_cond (s : State) : (s.askService).cond = s.cond := rfl
@[simp] theorem State.askService_mem (s : State) : (s.askService).mem = s.mem := rfl
@[simp] theorem State.askService_run (s : State) : (s.askService).run = s.run := rfl
@[simp] theorem State.askService_cfg (s : State) : (s.askService).cfg = s.cfg := rfl
@[simp] theorem State.askService_keyboard (s : State) : (s.askService).keyboard = s.keyboard := rfl
@[simp] theorem State.askService_consoleIn (s : State) : (s.askService).consoleIn = s.consoleIn := rfl
@[simp] theorem State.askService_consoleOut (s : State) : (s.askService).consoleOut = s.consoleOut := rfl
@[simp] theorem State.askService_services (s : State) : (s.askService).services = s.services.asked := rfl
@[simp] theorem State.askService_host (s : State) : (s.askService).host = s.host := rfl
@[simp] theorem State.askService_reg (s : State) (q : RegIdx) : (s.askService).reg q = s.reg q := rfl
@[simp] theorem State.askService_peek (s : State) (b : Word) : (s.askService).peek b = s.peek b := rfl
@[simp] theorem State.askService_keyAnswer (s : State) : (s.askService).keyAnswer = s.keyAnswer := rfl
@[simp] theorem State.askService_charAnswer (s : State) : (s.askService).charAnswer = s.charAnswer := rfl
@[simp] theorem State.askService_charsCome (s : State) (n : Nat) : (s.askService).charsCome n = s.charsCome n := rfl

/-! ### setRegs, which writes the listed registers -/

@[simp] theorem State.setRegs_pc (s : State) (vs : Vector Word 8) (l : List RegIdx) : (s.setRegs vs l).pc = s.pc := by
  induction l generalizing s with
  | nil => rfl
  | cons r l ih => rw [State.setRegs, ih]; rfl
@[simp] theorem State.setRegs_cond (s : State) (vs : Vector Word 8) (l : List RegIdx) : (s.setRegs vs l).cond = s.cond := by
  induction l generalizing s with
  | nil => rfl
  | cons r l ih => rw [State.setRegs, ih]; rfl
@[simp] theorem State.setRegs_mem (s : State) (vs : Vector Word 8) (l : List RegIdx) : (s.setRegs vs l).mem = s.mem := by
  induction l generalizing s with
  | nil => rfl
  | cons r l ih => rw [State.setRegs, ih]; rfl
@[simp] theorem State.setRegs_run (s : State) (vs : Vector Word 8) (l : List RegIdx) : (s.setRegs vs l).run = s.run := by
  induction l generalizing s with
  | nil => rfl
  | cons r l ih => rw [State.setRegs, ih]; rfl
@[simp] theorem State.setRegs_cfg (s : State) (vs : Vector Word 8) (l : List RegIdx) : (s.setRegs vs l).cfg = s.cfg := by
  induction l generalizing s with
  | nil => rfl
  | cons r l ih => rw [State.setRegs, ih]; rfl
@[simp] theorem State.setRegs_keyboard (s : State) (vs : Vector Word 8) (l : List RegIdx) : (s.setRegs vs l).keyboard = s.keyboard := by
  induction l generalizing s with
  | nil => rfl
  | cons r l ih => rw [State.setRegs, ih]; rfl
@[simp] theorem State.setRegs_consoleIn (s : State) (vs : Vector Word 8) (l : List RegIdx) : (s.setRegs vs l).consoleIn = s.consoleIn := by
  induction l generalizing s with
  | nil => rfl
  | cons r l ih => rw [State.setRegs, ih]; rfl
@[simp] theorem State.setRegs_consoleOut (s : State) (vs : Vector Word 8) (l : List RegIdx) : (s.setRegs vs l).consoleOut = s.consoleOut := by
  induction l generalizing s with
  | nil => rfl
  | cons r l ih => rw [State.setRegs, ih]; rfl
@[simp] theorem State.setRegs_services (s : State) (vs : Vector Word 8) (l : List RegIdx) : (s.setRegs vs l).services = s.services := by
  induction l generalizing s with
  | nil => rfl
  | cons r l ih => rw [State.setRegs, ih]; rfl
@[simp] theorem State.setRegs_host (s : State) (vs : Vector Word 8) (l : List RegIdx) : (s.setRegs vs l).host = s.host := by
  induction l generalizing s with
  | nil => rfl
  | cons r l ih => rw [State.setRegs, ih]; rfl
@[simp] theorem State.setRegs_peek (s : State) (vs : Vector Word 8) (l : List RegIdx) (b : Word) :
    (s.setRegs vs l).peek b = s.peek b := by simp only [State.peek, State.setRegs_mem]

/-! ### raiseIllegalOpcode -/

@[simp] theorem State.raiseIllegalOpcode_regs (s : State) (w : Word) : (s.raiseIllegalOpcode w).regs = s.regs := rfl
@[simp] theorem State.raiseIllegalOpcode_pc (s : State) (w : Word) : (s.raiseIllegalOpcode w).pc = s.pc := rfl
@[simp] theorem State.raiseIllegalOpcode_cond (s : State) (w : Word) : (s.raiseIllegalOpcode w).cond = s.cond := rfl
@[simp] theorem State.raiseIllegalOpcode_mem (s : State) (w : Word) : (s.raiseIllegalOpcode w).mem = s.mem := rfl
@[simp] theorem State.raiseIllegalOpcode_run (s : State) (w : Word) : (s.raiseIllegalOpcode w).run = .faulted (s.pc - 1) w := rfl
@[simp] theorem State.raiseIllegalOpcode_cfg (s : State) (w : Word) : (s.raiseIllegalOpcode w).cfg = s.cfg := rfl
@[simp] theorem State.raiseIllegalOpcode_keyboard (s : State) (w : Word) : (s.raiseIllegalOpcode w).keyboard = s.keyboard := rfl
@[simp] theorem State.raiseIllegalOpcode_consoleIn (s : State) (w : Word) : (s.raiseIllegalOpcode w).consoleIn = s.consoleIn := rfl
@[simp] theorem State.raiseIllegalOpcode_consoleOut (s : State) (w : Word) : (s.raiseIllegalOpcode w).consoleOut = s.consoleOut := rfl
@[simp] theorem State.raiseIllegalOpcode_host (s : State) (w : Word) : (s.raiseIllegalOpcode w).host = s.host := rfl
@[simp] theorem State.raiseIllegalOpcode_services (s : State) (w : Word) : (s.raiseIllegalOpcode w).services = s.services := rfl
@[simp] theorem State.raiseIllegalOpcode_reg (s : State) (w : Word) (q : RegIdx) : (s.raiseIllegalOpcode w).reg q = s.reg q := rfl
@[simp] theorem State.raiseIllegalOpcode_peek (s : State) (w : Word) (b : Word) : (s.raiseIllegalOpcode w).peek b = s.peek b := rfl
@[simp] theorem State.raiseIllegalOpcode_keyAnswer (s : State) (w : Word) : (s.raiseIllegalOpcode w).keyAnswer = s.keyAnswer := rfl
@[simp] theorem State.raiseIllegalOpcode_charAnswer (s : State) (w : Word) : (s.raiseIllegalOpcode w).charAnswer = s.charAnswer := rfl

/-! ### halt -/

@[simp] theorem State.halt_regs (s : State) : (s.halt).regs = s.regs := rfl
@[simp] theorem State.halt_pc (s : State) : (s.halt).pc = s.pc := rfl
@[simp] theorem State.halt_cond (s : State) : (s.halt).cond = s.cond := rfl
@[simp] theorem State.halt_mem (s : State) : (s.halt).mem = s.mem := rfl
@[simp] theorem State.halt_run (s : State) : (s.halt).run = .halted := rfl
@[simp] theorem State.halt_cfg (s : State) : (s.halt).cfg = s.cfg := rfl
@[simp] theorem State.halt_keyboard (s : State) : (s.halt).keyboard = s.keyboard := rfl
@[simp] theorem State.halt_consoleIn (s : State) : (s.halt).consoleIn = s.consoleIn := rfl
@[simp] theorem State.halt_consoleOut (s : State) : (s.halt).consoleOut = s.consoleOut := rfl
@[simp] theorem State.halt_host (s : State) : (s.halt).host = s.host := rfl
@[simp] theorem State.halt_services (s : State) : (s.halt).services = s.services := rfl
@[simp] theorem State.halt_reg (s : State) (q : RegIdx) : (s.halt).reg q = s.reg q := rfl
@[simp] theorem State.halt_peek (s : State) (b : Word) : (s.halt).peek b = s.peek b := rfl
@[simp] theorem State.halt_keyAnswer (s : State) : (s.halt).keyAnswer = s.keyAnswer := rfl
@[simp] theorem State.halt_charAnswer (s : State) : (s.halt).charAnswer = s.charAnswer := rfl

/-! ### hostStop -/

@[simp] theorem State.hostStop_regs (s : State) : (s.hostStop).regs = s.regs := rfl
@[simp] theorem State.hostStop_pc (s : State) : (s.hostStop).pc = s.pc := rfl
@[simp] theorem State.hostStop_cond (s : State) : (s.hostStop).cond = s.cond := rfl
@[simp] theorem State.hostStop_mem (s : State) : (s.hostStop).mem = s.mem := rfl
@[simp] theorem State.hostStop_run (s : State) : (s.hostStop).run = .halted := rfl
@[simp] theorem State.hostStop_cfg (s : State) : (s.hostStop).cfg = s.cfg := rfl
@[simp] theorem State.hostStop_keyboard (s : State) : (s.hostStop).keyboard = s.keyboard := rfl
@[simp] theorem State.hostStop_consoleIn (s : State) : (s.hostStop).consoleIn = s.consoleIn := rfl
@[simp] theorem State.hostStop_consoleOut (s : State) : (s.hostStop).consoleOut = s.consoleOut := rfl
@[simp] theorem State.hostStop_host (s : State) : (s.hostStop).host = s.host := rfl
@[simp] theorem State.hostStop_services (s : State) : (s.hostStop).services = s.services := rfl
@[simp] theorem State.hostStop_reg (s : State) (q : RegIdx) : (s.hostStop).reg q = s.reg q := rfl
@[simp] theorem State.hostStop_peek (s : State) (b : Word) : (s.hostStop).peek b = s.peek b := rfl
@[simp] theorem State.hostStop_keyAnswer (s : State) : (s.hostStop).keyAnswer = s.keyAnswer := rfl
@[simp] theorem State.hostStop_charAnswer (s : State) : (s.hostStop).charAnswer = s.charAnswer := rfl

/-! ### passBoundary -/

@[simp] theorem State.passBoundary_regs (s : State) : (s.passBoundary).regs = s.regs := rfl
@[simp] theorem State.passBoundary_pc (s : State) : (s.passBoundary).pc = s.pc := rfl
@[simp] theorem State.passBoundary_cond (s : State) : (s.passBoundary).cond = s.cond := rfl
@[simp] theorem State.passBoundary_mem (s : State) : (s.passBoundary).mem = s.mem := rfl
@[simp] theorem State.passBoundary_run (s : State) : (s.passBoundary).run = s.run := rfl
@[simp] theorem State.passBoundary_cfg (s : State) : (s.passBoundary).cfg = s.cfg := rfl
@[simp] theorem State.passBoundary_keyboard (s : State) : (s.passBoundary).keyboard = s.keyboard := rfl
@[simp] theorem State.passBoundary_consoleIn (s : State) : (s.passBoundary).consoleIn = s.consoleIn := rfl
@[simp] theorem State.passBoundary_consoleOut (s : State) : (s.passBoundary).consoleOut = s.consoleOut := rfl
@[simp] theorem State.passBoundary_host (s : State) : (s.passBoundary).host = s.host.asked := rfl
@[simp] theorem State.passBoundary_services (s : State) : (s.passBoundary).services = s.services := rfl
@[simp] theorem State.passBoundary_reg (s : State) (q : RegIdx) : (s.passBoundary).reg q = s.reg q := rfl
@[simp] theorem State.passBoundary_peek (s : State) (b : Word) : (s.passBoundary).peek b = s.peek b := rfl
@[simp] theorem State.passBoundary_keyAnswer (s : State) : (s.passBoundary).keyAnswer = s.keyAnswer := rfl
@[simp] theorem State.passBoundary_charAnswer (s : State) : (s.passBoundary).charAnswer = s.charAnswer := rfl

/-! ### linkR7 -/

@[simp] theorem State.linkR7_pc (s : State) : (s.linkR7).pc = s.pc := rfl
@[simp] theorem State.linkR7_cond (s : State) : (s.linkR7).cond = s.cond := rfl
@[simp] theorem State.linkR7_mem (s : State) : (s.linkR7).mem = s.mem := rfl
@[simp] theorem State.linkR7_run (s : State) : (s.linkR7).run = s.run := rfl
@[simp] theorem State.linkR7_cfg (s : State) : (s.linkR7).cfg = s.cfg := rfl
@[simp] theorem State.linkR7_keyboard (s : State) : (s.linkR7).keyboard = s.keyboard := rfl
@[simp] theorem State.linkR7_consoleIn (s : State) : (s.linkR7).consoleIn = s.consoleIn := rfl
@[simp] theorem State.linkR7_consoleOut (s : State) : (s.linkR7).consoleOut = s.consoleOut := rfl
@[simp] theorem State.linkR7_host (s : State) : (s.linkR7).host = s.host := rfl
@[simp] theorem State.linkR7_services (s : State) : (s.linkR7).services = s.services := rfl
@[simp] theorem State.linkR7_peek (s : State) (b : Word) : (s.linkR7).peek b = s.peek b := rfl
@[simp] theorem State.linkR7_keyAnswer (s : State) : (s.linkR7).keyAnswer = s.keyAnswer := rfl
@[simp] theorem State.linkR7_charAnswer (s : State) : (s.linkR7).charAnswer = s.charAnswer := rfl

/-! ### setCC -/

@[simp] theorem State.setCC_regs (s : State) (r : RegIdx) : (s.setCC r).regs = s.regs := rfl
@[simp] theorem State.setCC_pc (s : State) (r : RegIdx) : (s.setCC r).pc = s.pc := rfl
@[simp] theorem State.setCC_cond (s : State) (r : RegIdx) : (s.setCC r).cond = condOf (s.reg r) := rfl
@[simp] theorem State.setCC_mem (s : State) (r : RegIdx) : (s.setCC r).mem = s.mem := rfl
@[simp] theorem State.setCC_run (s : State) (r : RegIdx) : (s.setCC r).run = s.run := rfl
@[simp] theorem State.setCC_cfg (s : State) (r : RegIdx) : (s.setCC r).cfg = s.cfg := rfl
@[simp] theorem State.setCC_keyboard (s : State) (r : RegIdx) : (s.setCC r).keyboard = s.keyboard := rfl
@[simp] theorem State.setCC_consoleIn (s : State) (r : RegIdx) : (s.setCC r).consoleIn = s.consoleIn := rfl
@[simp] theorem State.setCC_consoleOut (s : State) (r : RegIdx) : (s.setCC r).consoleOut = s.consoleOut := rfl
@[simp] theorem State.setCC_host (s : State) (r : RegIdx) : (s.setCC r).host = s.host := rfl
@[simp] theorem State.setCC_services (s : State) (r : RegIdx) : (s.setCC r).services = s.services := rfl
@[simp] theorem State.setCC_reg (s : State) (r : RegIdx) (q : RegIdx) : (s.setCC r).reg q = s.reg q := rfl
@[simp] theorem State.setCC_peek (s : State) (r : RegIdx) (b : Word) : (s.setCC r).peek b = s.peek b := rfl
@[simp] theorem State.setCC_keyAnswer (s : State) (r : RegIdx) : (s.setCC r).keyAnswer = s.keyAnswer := rfl
@[simp] theorem State.setCC_charAnswer (s : State) (r : RegIdx) : (s.setCC r).charAnswer = s.charAnswer := rfl

/-! ### writeResult -/

@[simp] theorem State.writeResult_pc (s : State) (r : RegIdx) (v : Word) : (s.writeResult r v).pc = s.pc := rfl
@[simp] theorem State.writeResult_mem (s : State) (r : RegIdx) (v : Word) : (s.writeResult r v).mem = s.mem := rfl
@[simp] theorem State.writeResult_run (s : State) (r : RegIdx) (v : Word) : (s.writeResult r v).run = s.run := rfl
@[simp] theorem State.writeResult_cfg (s : State) (r : RegIdx) (v : Word) : (s.writeResult r v).cfg = s.cfg := rfl
@[simp] theorem State.writeResult_keyboard (s : State) (r : RegIdx) (v : Word) : (s.writeResult r v).keyboard = s.keyboard := rfl
@[simp] theorem State.writeResult_consoleIn (s : State) (r : RegIdx) (v : Word) : (s.writeResult r v).consoleIn = s.consoleIn := rfl
@[simp] theorem State.writeResult_consoleOut (s : State) (r : RegIdx) (v : Word) : (s.writeResult r v).consoleOut = s.consoleOut := rfl
@[simp] theorem State.writeResult_host (s : State) (r : RegIdx) (v : Word) : (s.writeResult r v).host = s.host := rfl
@[simp] theorem State.writeResult_services (s : State) (r : RegIdx) (v : Word) : (s.writeResult r v).services = s.services := rfl
@[simp] theorem State.writeResult_peek (s : State) (r : RegIdx) (v : Word) (b : Word) : (s.writeResult r v).peek b = s.peek b := rfl
@[simp] theorem State.writeResult_keyAnswer (s : State) (r : RegIdx) (v : Word) : (s.writeResult r v).keyAnswer = s.keyAnswer := rfl
@[simp] theorem State.writeResult_charAnswer (s : State) (r : RegIdx) (v : Word) : (s.writeResult r v).charAnswer = s.charAnswer := rfl

/-! ### placeAtPc -/

@[simp] theorem State.placeAtPc_regs (s : State) (w : Word) : (s.placeAtPc w).regs = s.regs := rfl
@[simp] theorem State.placeAtPc_pc (s : State) (w : Word) : (s.placeAtPc w).pc = s.pc := rfl
@[simp] theorem State.placeAtPc_cond (s : State) (w : Word) : (s.placeAtPc w).cond = s.cond := rfl
@[simp] theorem State.placeAtPc_run (s : State) (w : Word) : (s.placeAtPc w).run = .running := rfl
@[simp] theorem State.placeAtPc_cfg (s : State) (w : Word) : (s.placeAtPc w).cfg = s.cfg := rfl
@[simp] theorem State.placeAtPc_keyboard (s : State) (w : Word) : (s.placeAtPc w).keyboard = s.keyboard := rfl
@[simp] theorem State.placeAtPc_consoleIn (s : State) (w : Word) : (s.placeAtPc w).consoleIn = s.consoleIn := rfl
@[simp] theorem State.placeAtPc_consoleOut (s : State) (w : Word) : (s.placeAtPc w).consoleOut = s.consoleOut := rfl
@[simp] theorem State.placeAtPc_services (s : State) (w : Word) : (s.placeAtPc w).services = s.services := rfl
@[simp] theorem State.placeAtPc_hostStops (s : State) (w : Word) : (s.placeAtPc w).hostStops = false := rfl
@[simp] theorem State.placeAtPc_reg (s : State) (w : Word) (q : RegIdx) : (s.placeAtPc w).reg q = s.reg q := rfl
@[simp] theorem State.placeAtPc_keyAnswer (s : State) (w : Word) : (s.placeAtPc w).keyAnswer = s.keyAnswer := rfl
@[simp] theorem State.placeAtPc_charAnswer (s : State) (w : Word) : (s.placeAtPc w).charAnswer = s.charAnswer := rfl

/-! ### trapEntry, which writes R7 or nothing -/

@[simp] theorem State.trapEntry_pc (s : State) : s.trapEntry.pc = s.pc := by
  unfold State.trapEntry; split <;> rfl
@[simp] theorem State.trapEntry_cond (s : State) : s.trapEntry.cond = s.cond := by
  unfold State.trapEntry; split <;> rfl
@[simp] theorem State.trapEntry_mem (s : State) : s.trapEntry.mem = s.mem := by
  unfold State.trapEntry; split <;> rfl
@[simp] theorem State.trapEntry_run (s : State) : s.trapEntry.run = s.run := by
  unfold State.trapEntry; split <;> rfl
@[simp] theorem State.trapEntry_cfg (s : State) : s.trapEntry.cfg = s.cfg := by
  unfold State.trapEntry; split <;> rfl
@[simp] theorem State.trapEntry_keyboard (s : State) : s.trapEntry.keyboard = s.keyboard := by
  unfold State.trapEntry; split <;> rfl
@[simp] theorem State.trapEntry_consoleIn (s : State) : s.trapEntry.consoleIn = s.consoleIn := by
  unfold State.trapEntry; split <;> rfl
@[simp] theorem State.trapEntry_consoleOut (s : State) : s.trapEntry.consoleOut = s.consoleOut := by
  unfold State.trapEntry; split <;> rfl
@[simp] theorem State.trapEntry_services (s : State) : s.trapEntry.services = s.services := by
  unfold State.trapEntry; split <;> rfl
@[simp] theorem State.trapEntry_host (s : State) : s.trapEntry.host = s.host := by
  unfold State.trapEntry; split <;> rfl
@[simp] theorem State.trapEntry_peek (s : State) (b : Word) : s.trapEntry.peek b = s.peek b := by
  unfold State.trapEntry; split <;> rfl
@[simp] theorem State.trapEntry_charAnswer (s : State) : s.trapEntry.charAnswer = s.charAnswer := by
  unfold State.trapEntry; split <;> rfl
@[simp] theorem State.trapEntry_charsCome (s : State) (n : Nat) : s.trapEntry.charsCome n = s.charsCome n := by
  unfold State.trapEntry; split <;> rfl

/-! ### reading a register after it, or another one, is written -/

@[simp] theorem State.setReg_reg (s : State) (d : RegIdx) (v : Word) (r : RegIdx) :
    (s.setReg d v).reg r = if r = d then v else s.reg r := by
  unfold State.reg State.setReg
  rw [Vector.getElem_set]
  by_cases h : r = d
  · simp [h]
  · rw [if_neg (fun e => h (BitVec.eq_of_toNat_eq e).symm), if_neg h]

@[simp] theorem State.setRegs_reg (s : State) (vs : Vector Word 8) (l : List RegIdx) (r : RegIdx) :
    (s.setRegs vs l).reg r = if r ∈ l then vs[r.toNat]'r.isLt else s.reg r := by
  induction l generalizing s with
  | nil => simp [State.setRegs]
  | cons q l ih =>
    rw [State.setRegs, ih, State.setReg_reg]
    by_cases hl : r ∈ l
    · simp [hl]
    · by_cases hq : r = q <;> simp [hl, hq]

theorem State.setReg_reg_same (s : State) (d : RegIdx) (v : Word) : (s.setReg d v).reg d = v := by simp

@[simp] theorem State.writeResult_reg (s : State) (d : RegIdx) (v : Word) (r : RegIdx) :
    (s.writeResult d v).reg r = if r = d then v else s.reg r := by
  unfold State.writeResult; simp

@[simp] theorem State.writeResult_cond (s : State) (d : RegIdx) (v : Word) : (s.writeResult d v).cond = condOf v := by
  unfold State.writeResult; simp

@[simp] theorem State.linkR7_reg (s : State) (r : RegIdx) : s.linkR7.reg r = if r = 7#3 then s.pc else s.reg r := by
  unfold State.linkR7; simp

theorem State.trapEntry_reg (s : State) (r : RegIdx) :
    s.trapEntry.reg r = if s.cfg.trapLinkR7 = true ∧ r = 7#3 then s.pc else s.reg r := by
  unfold State.trapEntry
  by_cases h : s.cfg.trapLinkR7 = true <;> simp [h]

/-! ### the interfaces outside the CORE -/

/-- The answers of an interface once it has been asked `n` times. -/
theorem Channel.askedTimes_eq {α : Type} (c : Channel α) (n : Nat) :
    c.askedTimes n = { answers := c.answers.drop n, draws := c.draws + n } := by
  induction n generalizing c with
  | zero => rfl
  | succ n ih =>
    rw [Channel.askedTimes, ih, Channel.asked, List.drop_tail, Nat.add_right_comm, Nat.add_assoc]

@[simp] theorem Channel.answer_fresh {α : Type} (free : Nat → α) : (Channel.fresh : Channel α).answer free = free 0 := rfl

/-! ### reset -/

@[simp] theorem State.resetWith_reg (cfg : Config) (r : RegIdx) : (State.resetWith cfg).reg r = 0x0000#16 := by
  simp [State.resetWith, State.reg]

@[simp] theorem State.resetWith_hostStops (cfg : Config) : (State.resetWith cfg).hostStops = Config.hostStops 0 := rfl

@[simp] theorem State.resetWith_peek (cfg : Config) (a : Word) : (State.resetWith cfg).peek a = 0x0000#16 := rfl

end Sys2Proof.Machine
end

