-- ==== Sys2Proof/Laws/Memory.lean ====
section
/-! SUPPORT. The memory array: reads over writes, and that every operation keeps the canonical form. -/

namespace Sys2Proof.Machine

theorem Memory.read_drop (m : Memory) (a b : Nat) :
    Memory.read (Memory.drop m a) b = if b = a then Memory.unwritten else Memory.read m b := by
  induction m with
  | nil => simp [Memory.drop, Memory.read]
  | cons c rest ih =>
    obtain ⟨k, x⟩ := c
    by_cases hak : a = k
    · subst hak
      rw [Memory.drop, if_pos rfl, ih]
      by_cases hba : b = a <;> simp [Memory.read, hba]
    · by_cases hbk : b = k
      · simp [Memory.drop, Memory.read, hbk, hak, Ne.symm hak]
      · simp [Memory.drop, Memory.read, ih, hak, hbk]

theorem Memory.read_place (m : Memory) (a b : Nat) (v : Word) :
    Memory.read (Memory.place (Memory.drop m a) a v) b = if b = a then v else Memory.read (Memory.drop m a) b := by
  induction m with
  | nil => simp [Memory.drop, Memory.place, Memory.read]
  | cons c rest ih =>
    obtain ⟨k, x⟩ := c
    by_cases hak : a = k
    · subst hak
      simpa [Memory.drop] using ih
    · by_cases hlt : a < k
      · simp [Memory.drop, Memory.place, Memory.read, hak, hlt]
      · by_cases hbk : b = k
        · simp [Memory.drop, Memory.place, Memory.read, hak, hlt, hbk, Ne.symm hak]
        · simp [Memory.drop, Memory.place, Memory.read, hak, hlt, hbk, ih]

/-- Reading after writing, whatever list the memory is. -/
theorem Memory.read_write (m : Memory) (a b : Nat) (v : Word) :
    Memory.read (Memory.write m a v) b = if b = a then v else Memory.read m b := by
  unfold Memory.write
  by_cases hv : v = Memory.unwritten
  · rw [if_pos hv, Memory.read_drop, hv]
  · rw [if_neg hv, Memory.read_place, Memory.read_drop]
    split <;> rfl

theorem Memory.wfFrom_mono {m : Memory} {lo hi : Nat} (hle : lo ≤ hi) (h : Memory.wfFrom hi m = true) :
    Memory.wfFrom lo m = true := by
  cases m with
  | nil => rfl
  | cons c rest =>
    obtain ⟨k, x⟩ := c
    simp only [Memory.wfFrom, Bool.and_eq_true, decide_eq_true_eq] at h ⊢
    exact ⟨⟨⟨by omega, h.1.1.2⟩, h.1.2⟩, h.2⟩

theorem Memory.wfFrom_drop {m : Memory} {lo : Nat} (a : Nat) (h : Memory.wfFrom lo m = true) :
    Memory.wfFrom lo (Memory.drop m a) = true := by
  induction m generalizing lo with
  | nil => rfl
  | cons c rest ih =>
    obtain ⟨k, x⟩ := c
    simp only [Memory.wfFrom, Bool.and_eq_true, decide_eq_true_eq] at h
    unfold Memory.drop
    split
    · exact Memory.wfFrom_mono (by omega) (ih h.2)
    · simp only [Memory.wfFrom, Bool.and_eq_true, decide_eq_true_eq]
      exact ⟨h.1, ih h.2⟩

/-- Listing a word for an address that the list does not hold keeps the addresses strictly rising. -/
theorem Memory.wfFrom_place {m : Memory} {lo a : Nat} {v : Word} (h : Memory.wfFrom lo m = true) (ha : lo ≤ a)
    (hb : a < 65536) (hv : v ≠ Memory.unwritten) :
    Memory.wfFrom lo (Memory.place (Memory.drop m a) a v) = true := by
  induction m generalizing lo with
  | nil => simp [Memory.drop, Memory.place, Memory.wfFrom, ha, hb, hv]
  | cons c rest ih =>
    obtain ⟨k, x⟩ := c
    have h' := h
    simp only [Memory.wfFrom, Bool.and_eq_true, decide_eq_true_eq] at h'
    unfold Memory.drop
    split
    · exact ih (Memory.wfFrom_mono (by omega) h'.2) ha
    · unfold Memory.place
      split
      · simp only [Memory.wfFrom, Bool.and_eq_true, decide_eq_true_eq, bne_iff_ne]
        exact ⟨⟨⟨ha, hb⟩, hv⟩, ⟨⟨⟨by omega, h'.1.1.2⟩, by simpa using h'.1.2⟩, Memory.wfFrom_drop a h'.2⟩⟩
      · simp only [Memory.wfFrom, Bool.and_eq_true, decide_eq_true_eq]
        exact ⟨h'.1, ih h'.2 (by omega)⟩

/-- A write keeps the canonical form. -/
theorem Memory.wf_write {m : Memory} (a v : Word) (h : Memory.wf m = true) : Memory.wf (Memory.write m a.toNat v) = true := by
  unfold Memory.write
  split
  · exact Memory.wfFrom_drop _ h
  · exact Memory.wfFrom_place h (Nat.zero_le _) a.isLt (by assumption)

/-- The stored word after a store, and every other one. -/
@[simp] theorem State.poke_peek (s : State) (a v b : Word) : (s.poke a v).peek b = if b = a then v else s.peek b := by
  unfold State.peek State.poke
  rw [Memory.read_write]
  by_cases h : b = a
  · simp [h]
  · rw [if_neg (fun e => h (BitVec.eq_of_toNat_eq e)), if_neg h]

@[simp] theorem State.memWrite_peek (s : State) (a v b : Word) :
    (s.memWrite a v).peek b = if b = a then v else s.peek b := State.poke_peek s a v b

theorem State.wf_poke {s : State} (a v : Word) (h : Memory.wf s.mem = true) : Memory.wf (s.poke a v).mem = true :=
  Memory.wf_write a v h

theorem State.wf_memWrite {s : State} (a v : Word) (h : Memory.wf s.mem = true) : Memory.wf (s.memWrite a v).mem = true :=
  Memory.wf_write a v h

theorem State.wf_kbsrPoll {s : State} (h : Memory.wf s.mem = true) : Memory.wf s.kbsrPoll.2.mem = true := by
  unfold State.kbsrPoll
  split
  · exact State.wf_poke _ _ (State.wf_poke _ _ h)
  · exact State.wf_poke _ _ h

theorem State.wf_memRead {s : State} (a : Word) (h : Memory.wf s.mem = true) : Memory.wf (s.memRead a).2.mem = true := by
  unfold State.memRead
  split
  · exact State.wf_kbsrPoll h
  · exact h

theorem State.wf_resetWith (cfg : Config) : Memory.wf (State.resetWith cfg).mem = true := rfl

end Sys2Proof.Machine
end

