-- ==== Sys2Proof/Laws/Ops.lean ====
section
/-! SUPPORT. What the access primitives, the fetch and the step can do: one inversion lemma each, and the fields
they keep. -/

namespace Sys2Proof.Machine

/-! ### The poll and MemRead (R35, R38) -/

@[simp] theorem State.kbsrPoll_regs (s : State) : s.kbsrPoll.2.regs = s.regs := by
  unfold State.kbsrPoll; split <;> rfl
@[simp] theorem State.kbsrPoll_pc (s : State) : s.kbsrPoll.2.pc = s.pc := by
  unfold State.kbsrPoll; split <;> rfl
@[simp] theorem State.kbsrPoll_cond (s : State) : s.kbsrPoll.2.cond = s.cond := by
  unfold State.kbsrPoll; split <;> rfl
@[simp] theorem State.kbsrPoll_run (s : State) : s.kbsrPoll.2.run = s.run := by
  unfold State.kbsrPoll; split <;> rfl
@[simp] theorem State.kbsrPoll_cfg (s : State) : s.kbsrPoll.2.cfg = s.cfg := by
  unfold State.kbsrPoll; split <;> rfl
@[simp] theorem State.kbsrPoll_consoleIn (s : State) : s.kbsrPoll.2.consoleIn = s.consoleIn := by
  unfold State.kbsrPoll; split <;> rfl
@[simp] theorem State.kbsrPoll_consoleOut (s : State) : s.kbsrPoll.2.consoleOut = s.consoleOut := by
  unfold State.kbsrPoll; split <;> rfl
@[simp] theorem State.kbsrPoll_services (s : State) : s.kbsrPoll.2.services = s.services := by
  unfold State.kbsrPoll; split <;> rfl
@[simp] theorem State.kbsrPoll_host (s : State) : s.kbsrPoll.2.host = s.host := by
  unfold State.kbsrPoll; split <;> rfl

@[simp] theorem State.memRead_regs (s : State) (a : Word) : (s.memRead a).2.regs = s.regs := by
  unfold State.memRead; split <;> simp
@[simp] theorem State.memRead_pc (s : State) (a : Word) : (s.memRead a).2.pc = s.pc := by
  unfold State.memRead; split <;> simp
@[simp] theorem State.memRead_cond (s : State) (a : Word) : (s.memRead a).2.cond = s.cond := by
  unfold State.memRead; split <;> simp
@[simp] theorem State.memRead_run (s : State) (a : Word) : (s.memRead a).2.run = s.run := by
  unfold State.memRead; split <;> simp
@[simp] theorem State.memRead_cfg (s : State) (a : Word) : (s.memRead a).2.cfg = s.cfg := by
  unfold State.memRead; split <;> simp
@[simp] theorem State.memRead_consoleIn (s : State) (a : Word) : (s.memRead a).2.consoleIn = s.consoleIn := by
  unfold State.memRead; split <;> simp
@[simp] theorem State.memRead_consoleOut (s : State) (a : Word) : (s.memRead a).2.consoleOut = s.consoleOut := by
  unfold State.memRead; split <;> simp
@[simp] theorem State.memRead_services (s : State) (a : Word) : (s.memRead a).2.services = s.services := by
  unfold State.memRead; split <;> simp
@[simp] theorem State.memRead_host (s : State) (a : Word) : (s.memRead a).2.host = s.host := by
  unfold State.memRead; split <;> simp

@[simp] theorem State.memRead_reg (s : State) (a : Word) (r : RegIdx) : (s.memRead a).2.reg r = s.reg r := by
  simp only [State.reg, State.memRead_regs]

@[simp] theorem State.memRead_charAnswer (s : State) (a : Word) : (s.memRead a).2.charAnswer = s.charAnswer := by
  simp only [State.charAnswer, State.memRead_consoleIn]

@[simp] theorem State.memRead_hostStops (s : State) (a : Word) : (s.memRead a).2.hostStops = s.hostStops := by
  simp only [State.hostStops, State.memRead_host]

/-- Everything a `MemRead` can do: a plain read, a poll with a key, a poll without one. -/
theorem State.memRead_cases (s : State) (a : Word) :
    (a ≠ s.cfg.kbsrAddr ∧ s.memRead a = (s.peek a, s)) ∨
    (a = s.cfg.kbsrAddr ∧ ∃ k, s.keyAnswer = some k ∧
      s.memRead a = (s.cfg.kbsrReady, (s.askKeyboard.poke s.cfg.kbdrAddr k).poke s.cfg.kbsrAddr s.cfg.kbsrReady)) ∨
    (a = s.cfg.kbsrAddr ∧ s.keyAnswer = none ∧ s.memRead a = (0x0000#16, s.askKeyboard.poke s.cfg.kbsrAddr 0x0000#16)) := by
  by_cases h : a = s.cfg.kbsrAddr
  · right
    cases hk : s.keyAnswer with
    | some k => exact .inl ⟨h, k, rfl, by simp [State.memRead, State.kbsrPoll, h, hk]⟩
    | none => exact .inr ⟨h, rfl, by simp [State.memRead, State.kbsrPoll, h, hk]⟩
  · exact .inl ⟨h, by simp [State.memRead, h]⟩

/-- A read can change a word only at the two device registers, and only where it polls. -/
theorem State.memRead_peek_of_ne (s : State) (a b : Word) (h1 : b ≠ s.cfg.kbsrAddr) (h2 : b ≠ s.cfg.kbdrAddr) :
    (s.memRead a).2.peek b = s.peek b := by
  obtain ⟨_, e⟩ | ⟨_, k, _, e⟩ | ⟨_, _, e⟩ := s.memRead_cases a <;> simp [e, h1, h2]

/-- A read asks the keyboard at most once, and does so where a word changes. -/
theorem State.memRead_draws (s : State) (a : Word) :
    (s.memRead a).2 = s ∨ (s.memRead a).2.keyboard.draws = s.keyboard.draws + 1 := by
  obtain ⟨_, e⟩ | ⟨_, k, _, e⟩ | ⟨_, _, e⟩ := s.memRead_cases a
  · exact .inl (by rw [e])
  · exact .inr (by rw [e]; rfl)
  · exact .inr (by rw [e]; rfl)

/-- Reading commutes with what a read does not look at. -/
theorem State.memRead_setCond (s : State) (a c : Word) :
    ({ s with cond := c } : State).memRead a = ((s.memRead a).1, { (s.memRead a).2 with cond := c }) := by
  obtain ⟨h, e⟩ | ⟨h, k, hk, e⟩ | ⟨h, hk, e⟩ := s.memRead_cases a
  · rw [e]; simp [State.memRead, h, State.peek]
  · have hk' : ({ s with cond := c } : State).keyAnswer = some k := hk
    rw [e]; simp only [State.memRead, State.kbsrPoll, h, hk', if_true]; rfl
  · have hk' : ({ s with cond := c } : State).keyAnswer = none := hk
    rw [e]; simp only [State.memRead, State.kbsrPoll, h, hk', if_true]; rfl

/-! ### Fetch and step (R61, R64) -/

@[simp] theorem State.fetch_word (s : State) : s.fetch.1 = (s.memRead s.pc).1 := rfl
@[simp] theorem State.fetch_state (s : State) : s.fetch.2 = (s.memRead s.pc).2.setPc (s.pc + 1) := rfl

/-- The step of a state by what the engine finds at the boundary. -/
theorem step_stopped {s : State} (h : s.run ≠ .running) : step s = .next s := by
  unfold step stepWith
  split
  · contradiction
  · rfl

theorem step_stop {s : State} (h : s.run = .running) (hs : s.hostStops = true) : step s = .next s.hostStop := by
  simp [step, stepWith, h, hs]

theorem step_running {s : State} (h : s.run = .running) (hs : s.hostStops = false) :
    step s = exec (decode s.passBoundary.fetch.1) s.passBoundary.fetch.2 := by
  simp [step, stepWith, h, hs]

/-- Everything a step can do when it answers a next state. -/
theorem step_cases {s t : State} (h : step s = .next t) :
    (s.run ≠ .running ∧ t = s) ∨ (s.run = .running ∧ s.hostStops = true ∧ t = s.hostStop) ∨
    (s.run = .running ∧ s.hostStops = false ∧ exec (decode s.passBoundary.fetch.1) s.passBoundary.fetch.2 = .next t) := by
  by_cases hr : s.run = .running
  · cases hs : s.hostStops
    · rw [step_running hr hs] at h
      exact .inr (.inr ⟨hr, rfl, h⟩)
    · rw [step_stop hr hs] at h
      exact .inr (.inl ⟨hr, rfl, by injection h with h; exact h.symm⟩)
  · rw [step_stopped hr] at h
    exact .inl ⟨hr, by injection h with h; exact h.symm⟩

/-- Executing under the relation of the machine's own parameters is executing. -/
theorem execUnder_table (i : Instr) (s : State) : execUnder tableService i s = exec i s := by cases i <;> rfl

/-! ### Runs of the host's interface -/

theorem anyCore_run_next (M : Host.Core) {s u : M.State} (k : Nat) (h : M.step s = .next u) :
    M.run (k + 1) s = M.run k u := by simp [Host.Core.run, h]

theorem anyCore_run_fault (M : Host.Core) {s : M.State} {r : M.Fault} (k : Nat) (h : M.step s = .fault r) :
    M.run (k + 1) s = .fault r := by simp [Host.Core.run, h]

theorem anyCore_run_refused (M : Host.Core) {s : M.State} {r : M.Refusal} (k : Nat) (h : M.step s = .refused r) :
    M.run (k + 1) s = .refused r := by simp [Host.Core.run, h]

theorem run_step_next {s u : State} (k : Nat) (h : step s = .next u) : core.run (k + 1) s = core.run k u :=
  anyCore_run_next core k h

theorem run_step_fault {s : State} {r : Fault} (k : Nat) (h : step s = .fault r) : core.run (k + 1) s = .fault r :=
  anyCore_run_fault core k h

theorem run_step_refused {s : State} {r : Refusal} (k : Nat) (h : step s = .refused r) :
    core.run (k + 1) s = .refused r := anyCore_run_refused core k h

end Sys2Proof.Machine
end

