-- ==== Sys2Proof/Laws/Flags.lean ====
section
/-! SUPPORT. The flag update: the high bit is the sign of the signed reading (R9, R21). -/

namespace Sys2Proof.Machine

theorem bit15_iff_neg (v : Word) : bit v 15 = true ↔ v.toInt < 0 := by
  have h := BitVec.toInt_neg_iff (x := v)
  have e : bit v 15 = v.msb := by simp [bit, BitVec.msb_eq_getLsbD_last]
  rw [e, BitVec.msb_eq_decide, decide_eq_true_iff, h]
  have := v.isLt
  omega

/-- The flag by bits is the flag by signed reading. -/
theorem condOf_eq_flagFor (v : Word) : condOf v = flagFor v := by
  unfold condOf flagFor flNeg flZro flPos
  by_cases h : bit v 15 = true
  · rw [if_pos h, if_pos ((bit15_iff_neg v).1 h)]
  · rw [if_neg h, if_neg (fun c => h ((bit15_iff_neg v).2 c))]
    have : v = 0x0000#16 ↔ v.toInt = 0 := by
      constructor
      · rintro rfl; rfl
      · intro e; exact BitVec.eq_of_toInt_eq (by simpa using e)
    simp only [this]

/-- A flag is one of three values. -/
theorem condOf_cases (v : Word) : condOf v = 0x0001#16 ∨ condOf v = 0x0002#16 ∨ condOf v = 0x0004#16 := by
  unfold condOf flNeg flZro flPos
  split
  · exact .inr (.inr rfl)
  · split
    · exact .inr (.inl rfl)
    · exact .inl rfl

/-- A flag has no reserved bit (R19). -/
theorem condOf_reserved (v : Word) : condOf v &&& 0xFFF8#16 = 0x0000#16 := by
  obtain h | h | h := condOf_cases v <;> rw [h] <;> rfl

end Sys2Proof.Machine
end

