-- ==== Sys2Proof/Laws/Exec.lean ====
section
/-! SUPPORT. What each arm of exec answers, said once; what a TRAP can do; what every instruction keeps. -/

namespace Sys2Proof.Machine

/-! ### One equation per arm -/

theorem exec_addReg (dr sr1 sr2 : RegIdx) (s : State) :
    exec (.addReg dr sr1 sr2) s = .next (s.writeResult dr (s.reg sr1 + s.reg sr2)) := rfl
theorem exec_addImm (dr sr1 : RegIdx) (imm : Word) (s : State) :
    exec (.addImm dr sr1 imm) s = .next (s.writeResult dr (s.reg sr1 + imm)) := rfl
theorem exec_andReg (dr sr1 sr2 : RegIdx) (s : State) :
    exec (.andReg dr sr1 sr2) s = .next (s.writeResult dr (s.reg sr1 &&& s.reg sr2)) := rfl
theorem exec_andImm (dr sr1 : RegIdx) (imm : Word) (s : State) :
    exec (.andImm dr sr1 imm) s = .next (s.writeResult dr (s.reg sr1 &&& imm)) := rfl
theorem exec_notReg (dr sr : RegIdx) (s : State) :
    exec (.notReg dr sr) s = .next (s.writeResult dr (~~~ s.reg sr)) := rfl
theorem exec_br (nzp : BitVec 3) (off : Word) (s : State) :
    exec (.br nzp off) s = .next (if s.branchTaken nzp then s.setPc (s.pc + off) else s) := rfl
theorem exec_jmp (b : RegIdx) (s : State) : exec (.jmp b) s = .next (s.setPc (s.reg b)) := rfl
theorem exec_jsr (off : Word) (s : State) : exec (.jsr off) s = .next (s.linkR7.setPc (s.pc + off)) := rfl
theorem exec_jsrr (b : RegIdx) (s : State) : exec (.jsrr b) s = .next (s.linkR7.setPc (s.linkR7.reg b)) := rfl
theorem exec_ld (dr : RegIdx) (off : Word) (s : State) : exec (.ld dr off) s = .next (s.loadInto dr (s.pc + off)) := rfl
theorem exec_ldi (dr : RegIdx) (off : Word) (s : State) :
    exec (.ldi dr off) s = .next ((s.memRead (s.pc + off)).2.loadInto dr (s.memRead (s.pc + off)).1) := rfl
theorem exec_ldr (dr b : RegIdx) (off : Word) (s : State) :
    exec (.ldr dr b off) s = .next (s.loadInto dr (s.reg b + off)) := rfl
theorem exec_lea (dr : RegIdx) (off : Word) (s : State) :
    exec (.lea dr off) s = .next (s.writeResult dr (s.pc + off)) := rfl
theorem exec_st (sr : RegIdx) (off : Word) (s : State) :
    exec (.st sr off) s = .next (s.memWrite (s.pc + off) (s.reg sr)) := rfl
theorem exec_sti (sr : RegIdx) (off : Word) (s : State) :
    exec (.sti sr off) s = .next ((s.memRead (s.pc + off)).2.memWrite (s.memRead (s.pc + off)).1 (s.reg sr)) := by
  have : (s.memRead (s.pc + off)).2.reg sr = s.reg sr := State.memRead_reg s _ sr
  rw [← this]; rfl
theorem exec_str (sr b : RegIdx) (off : Word) (s : State) :
    exec (.str sr b off) s = .next (s.memWrite (s.reg b + off) (s.reg sr)) := rfl
theorem exec_trap (v : Word) (s : State) : exec (.trap v) s = (runService (s.service v) v s.trapEntry).complete := by
  unfold State.service
  rw [← State.trapEntry_cfg s]; rfl
theorem exec_rti (x : BitVec 12) (s : State) : exec (.rti x) s = .next (s.reservedOpcode (encode (.rti x))) := rfl
theorem exec_res (x : BitVec 12) (s : State) : exec (.res x) s = .next (s.reservedOpcode (encode (.res x))) := rfl

/-! ### A TRAP (R88 to R90) -/

/-- Everything a TRAP can do when it answers a next state. -/
theorem exec_trap_cases {v : Word} {s t : State} (h : exec (.trap v) s = .next t) :
    (∃ k, s.service v = .getc ∧ s.charAnswer = some k ∧ t = s.trapEntry.askConsole.writeResult 0#3 k) ∨
    (∃ k, s.service v = .inp ∧ s.charAnswer = some k ∧
      t = (s.trapEntry.askConsole.print [.prompt, .echo k]).writeResult 0#3 k) ∨
    (∃ es, (s.service v = .out ∨ s.service v = .puts ∨ s.service v = .putsp) ∧ t = s.trapEntry.print es) ∨
    (s.service v = .unknown ∧ t = s.trapEntry) ∨
    (s.service v = .halt ∧ t = (s.trapEntry.print [.haltMessage]).halt) ∨
    (∃ ws wc, s.service v = .external ws wc ∧ s.charsCome (s.trapEntry.serviceReply v).reads = true ∧
      (((s.trapEntry.serviceReply v).outcome = .resume ∧ t = s.trapEntry.takeReply ws wc (s.trapEntry.serviceReply v)) ∨
        ((s.trapEntry.serviceReply v).outcome = .halt ∧
          t = (s.trapEntry.takeReply ws wc (s.trapEntry.serviceReply v)).halt))) := by
  rw [exec_trap] at h
  cases hs : s.service v with
  | getc =>
    rw [hs] at h
    simp only [runService, serviceGetc, State.trapEntry_charAnswer] at h
    cases hc : s.charAnswer with
    | some k =>
      rw [hc] at h; simp only [ServiceOutcome.complete, Host.Outcome.next.injEq] at h
      exact .inl ⟨k, rfl, rfl, h.symm⟩
    | none => rw [hc] at h; simp [ServiceOutcome.complete] at h
  | inp =>
    rw [hs] at h
    simp only [runService, serviceIn, State.trapEntry_charAnswer] at h
    cases hc : s.charAnswer with
    | some k =>
      rw [hc] at h; simp only [ServiceOutcome.complete, Host.Outcome.next.injEq] at h
      exact .inr (.inl ⟨k, rfl, rfl, h.symm⟩)
    | none => rw [hc] at h; simp [ServiceOutcome.complete] at h
  | out =>
    rw [hs] at h
    simp only [runService, serviceOut, ServiceOutcome.complete, Host.Outcome.next.injEq] at h
    exact .inr (.inr (.inl ⟨_, by simp, h.symm⟩))
  | puts =>
    rw [hs] at h
    simp only [runService, serviceString] at h
    split at h <;> simp only [ServiceOutcome.complete, Host.Outcome.next.injEq, reduceCtorEq] at h
    exact .inr (.inr (.inl ⟨_, by simp, h.symm⟩))
  | putsp =>
    rw [hs] at h
    simp only [runService, serviceString] at h
    split at h <;> simp only [ServiceOutcome.complete, Host.Outcome.next.injEq, reduceCtorEq] at h
    exact .inr (.inr (.inl ⟨_, by simp, h.symm⟩))
  | halt =>
    rw [hs] at h
    simp only [runService, serviceHalt, ServiceOutcome.complete, Host.Outcome.next.injEq] at h
    exact .inr (.inr (.inr (.inr (.inl ⟨rfl, h.symm⟩))))
  | unknown =>
    rw [hs] at h
    simp only [runService, ServiceOutcome.complete, Host.Outcome.next.injEq] at h
    exact .inr (.inr (.inr (.inl ⟨rfl, h.symm⟩)))
  | external ws wc =>
    rw [hs] at h
    simp only [runService, serviceExternal, State.trapEntry_charsCome] at h
    cases hc : s.charsCome (s.trapEntry.serviceReply v).reads with
    | false => rw [hc] at h; simp [ServiceOutcome.complete] at h
    | true =>
      rw [hc, if_pos rfl] at h
      refine .inr (.inr (.inr (.inr (.inr ⟨ws, wc, rfl, rfl, ?_⟩))))
      cases ho : (s.trapEntry.serviceReply v).outcome <;> rw [ho] at h <;>
        simp only [ServiceOutcome.complete, Host.Outcome.next.injEq, reduceCtorEq] at h
      · exact .inl ⟨rfl, h.symm⟩
      · exact .inr ⟨rfl, h.symm⟩

/-! What an external service leaves (R90): only the registers its row lists, COND where its row says so, the console
and the two interfaces it has asked. -/

@[simp] theorem State.takeReply_pc (s : State) (ws : List RegIdx) (wc : Bool) (r : ServiceReply) :
    (s.takeReply ws wc r).pc = s.pc := by simp [State.takeReply]
@[simp] theorem State.takeReply_cond (s : State) (ws : List RegIdx) (wc : Bool) (r : ServiceReply) :
    (s.takeReply ws wc r).cond = if wc = true then r.cond.setWidth 16 else s.cond := by simp [State.takeReply, zext]
@[simp] theorem State.takeReply_mem (s : State) (ws : List RegIdx) (wc : Bool) (r : ServiceReply) :
    (s.takeReply ws wc r).mem = s.mem := by simp [State.takeReply]
@[simp] theorem State.takeReply_run (s : State) (ws : List RegIdx) (wc : Bool) (r : ServiceReply) :
    (s.takeReply ws wc r).run = s.run := by simp [State.takeReply]
@[simp] theorem State.takeReply_cfg (s : State) (ws : List RegIdx) (wc : Bool) (r : ServiceReply) :
    (s.takeReply ws wc r).cfg = s.cfg := by simp [State.takeReply]
@[simp] theorem State.takeReply_keyboard (s : State) (ws : List RegIdx) (wc : Bool) (r : ServiceReply) :
    (s.takeReply ws wc r).keyboard = s.keyboard := by simp [State.takeReply]
@[simp] theorem State.takeReply_consoleIn (s : State) (ws : List RegIdx) (wc : Bool) (r : ServiceReply) :
    (s.takeReply ws wc r).consoleIn = s.consoleIn.askedTimes r.reads := by simp [State.takeReply]
@[simp] theorem State.takeReply_consoleOut (s : State) (ws : List RegIdx) (wc : Bool) (r : ServiceReply) :
    (s.takeReply ws wc r).consoleOut = s.consoleOut ++ r.output := by simp [State.takeReply]
@[simp] theorem State.takeReply_services (s : State) (ws : List RegIdx) (wc : Bool) (r : ServiceReply) :
    (s.takeReply ws wc r).services = s.services.asked := by simp [State.takeReply]
@[simp] theorem State.takeReply_host (s : State) (ws : List RegIdx) (wc : Bool) (r : ServiceReply) :
    (s.takeReply ws wc r).host = s.host := by simp [State.takeReply]
@[simp] theorem State.takeReply_peek (s : State) (ws : List RegIdx) (wc : Bool) (r : ServiceReply) (b : Word) :
    (s.takeReply ws wc r).peek b = s.peek b := by simp only [State.peek, State.takeReply_mem]
@[simp] theorem State.takeReply_reg (s : State) (ws : List RegIdx) (wc : Bool) (r : ServiceReply) (q : RegIdx) :
    (s.takeReply ws wc r).reg q = if q ∈ ws then r.regs[q.toNat]'q.isLt else s.reg q := by
  simp [State.takeReply]

/-- The string at an address: its words are the stored words up to the first 0x0000 (R90). -/
theorem stringAt_eq (s : State) (n fuel : Nat) (a : Word) (hn : n < fuel)
    (hne : ∀ j < n, s.peek (a + BitVec.ofNat 16 j) ≠ 0x0000#16) (hz : s.peek (a + BitVec.ofNat 16 n) = 0x0000#16) :
    stringAt s a fuel = some ((List.range n).map (fun j => s.peek (a + BitVec.ofNat 16 j))) := by
  induction n generalizing a fuel with
  | zero =>
    obtain ⟨f, rfl⟩ : ∃ f, fuel = f + 1 := ⟨fuel - 1, by omega⟩
    have : s.peek a = 0x0000#16 := by simpa using hz
    simp [stringAt, this]
  | succ n ih =>
    obtain ⟨f, rfl⟩ : ∃ f, fuel = f + 1 := ⟨fuel - 1, by omega⟩
    have h0 : s.peek a ≠ 0x0000#16 := by simpa using hne 0 (by omega)
    have shift : ∀ j, a + 1#16 + BitVec.ofNat 16 j = a + BitVec.ofNat 16 (j + 1) := by
      intro j
      rw [BitVec.add_assoc, Nat.add_comm j 1, ← BitVec.ofNat_add_ofNat]
    have rest := ih f (a + 1#16) (by omega) (fun j hj => by rw [shift]; exact hne (j + 1) (by omega))
      (by rw [shift]; exact hz)
    rw [stringAt, if_neg h0, show a + 1 = a + 1#16 from rfl, rest, List.range_succ_eq_map]
    simp [shift]

/-- A string that has no end within the words looked at has no zero among them. -/
theorem stringAt_none {s : State} {a : Word} {fuel : Nat} (h : stringAt s a fuel = none) :
    ∀ j < fuel, s.peek (a + BitVec.ofNat 16 j) ≠ 0x0000#16 := by
  intro j
  induction j using Nat.strongRecOn with
  | ind j ih =>
    intro hj e
    rw [stringAt_eq s j fuel a hj (fun i hi => ih i hi (by omega)) e] at h
    exact absurd h (by simp)

/-! ### What every instruction keeps -/

@[simp] theorem State.loadInto_cfg (s : State) (dr : RegIdx) (a : Word) : (s.loadInto dr a).cfg = s.cfg := by
  simp [State.loadInto]
@[simp] theorem State.loadInto_services (s : State) (dr : RegIdx) (a : Word) :
    (s.loadInto dr a).services = s.services := by simp [State.loadInto]
@[simp] theorem State.loadInto_host (s : State) (dr : RegIdx) (a : Word) :
    (s.loadInto dr a).host = s.host := by simp [State.loadInto]
@[simp] theorem State.loadInto_run (s : State) (dr : RegIdx) (a : Word) : (s.loadInto dr a).run = s.run := by
  simp [State.loadInto]
@[simp] theorem State.loadInto_pc (s : State) (dr : RegIdx) (a : Word) : (s.loadInto dr a).pc = s.pc := by
  simp [State.loadInto]
@[simp] theorem State.loadInto_mem (s : State) (dr : RegIdx) (a : Word) :
    (s.loadInto dr a).mem = (s.memRead a).2.mem := rfl
@[simp] theorem State.loadInto_cond (s : State) (dr : RegIdx) (a : Word) :
    (s.loadInto dr a).cond = condOf (s.memRead a).1 := by simp [State.loadInto]
@[simp] theorem State.loadInto_reg (s : State) (dr : RegIdx) (a : Word) (r : RegIdx) :
    (s.loadInto dr a).reg r = if r = dr then (s.memRead a).1 else s.reg r := by simp [State.loadInto]

/-- What a reserved opcode can do (R57). -/
theorem State.reservedOpcode_cases (s : State) (w : Word) :
    (s.cfg.illegalPolicy = .inert ∧ s.reservedOpcode w = s) ∨
    (s.cfg.illegalPolicy = .fault ∧ s.reservedOpcode w = s.raiseIllegalOpcode w) := by
  unfold State.reservedOpcode
  cases h : s.cfg.illegalPolicy
  · exact .inl ⟨rfl, rfl⟩
  · exact .inr ⟨rfl, rfl⟩

end Sys2Proof.Machine
end

