-- ==== Sys2Proof/Laws/PerInstr.lean ====
section
/-! SUPPORT. Statements made per instruction. The family RowMatch: an instruction's encoding has the bits of
its row of spec/opcode_table.json (R50, R55). -/

namespace Sys2Proof.Laws.RowMatch

open Sys2Proof.Machine

/-- The encoding of the instruction matches its row's mask and match. -/
def Statement (i : Instr) : Prop := encode i &&& (rowOf i).1 = (rowOf i).2

/-- Two words agree when they agree bit by bit below 16. -/
theorem word_eq {a b : Word} (h : ∀ j < 16, a.getLsbD j = b.getLsbD j) : a = b := BitVec.eq_of_getLsbD_eq h

theorem addReg (dr : RegIdx) (sr1 : RegIdx) (sr2 : RegIdx) : Statement (.addReg dr sr1 sr2) := by
  refine word_eq fun j hj => ?_
  interval_cases j <;> simp [encode, rowOf, put]

theorem addImm (dr : RegIdx) (sr1 : RegIdx) (imm : Word) : Statement (.addImm dr sr1 imm) := by
  refine word_eq fun j hj => ?_
  interval_cases j <;> simp [encode, rowOf, put]

theorem andReg (dr : RegIdx) (sr1 : RegIdx) (sr2 : RegIdx) : Statement (.andReg dr sr1 sr2) := by
  refine word_eq fun j hj => ?_
  interval_cases j <;> simp [encode, rowOf, put]

theorem andImm (dr : RegIdx) (sr1 : RegIdx) (imm : Word) : Statement (.andImm dr sr1 imm) := by
  refine word_eq fun j hj => ?_
  interval_cases j <;> simp [encode, rowOf, put]

theorem notReg (dr : RegIdx) (sr : RegIdx) : Statement (.notReg dr sr) := by
  refine word_eq fun j hj => ?_
  interval_cases j <;> simp [encode, rowOf, put]

theorem br (nzp : BitVec 3) (off : Word) : Statement (.br nzp off) := by
  refine word_eq fun j hj => ?_
  interval_cases j <;> simp [encode, rowOf, put]

theorem jmp (b : RegIdx) : Statement (.jmp b) := by
  refine word_eq fun j hj => ?_
  interval_cases j <;> simp [encode, rowOf, put]

theorem jsr (off : Word) : Statement (.jsr off) := by
  refine word_eq fun j hj => ?_
  interval_cases j <;> simp [encode, rowOf, put]

theorem jsrr (b : RegIdx) : Statement (.jsrr b) := by
  refine word_eq fun j hj => ?_
  interval_cases j <;> simp [encode, rowOf, put]

theorem ld (dr : RegIdx) (off : Word) : Statement (.ld dr off) := by
  refine word_eq fun j hj => ?_
  interval_cases j <;> simp [encode, rowOf, put]

theorem st (sr : RegIdx) (off : Word) : Statement (.st sr off) := by
  refine word_eq fun j hj => ?_
  interval_cases j <;> simp [encode, rowOf, put]

theorem ldr (dr : RegIdx) (b : RegIdx) (off : Word) : Statement (.ldr dr b off) := by
  refine word_eq fun j hj => ?_
  interval_cases j <;> simp [encode, rowOf, put]

theorem str (sr : RegIdx) (b : RegIdx) (off : Word) : Statement (.str sr b off) := by
  refine word_eq fun j hj => ?_
  interval_cases j <;> simp [encode, rowOf, put]

theorem rti (x : BitVec 12) : Statement (.rti x) := by
  refine word_eq fun j hj => ?_
  interval_cases j <;> simp [encode, rowOf, put]

theorem ldi (dr : RegIdx) (off : Word) : Statement (.ldi dr off) := by
  refine word_eq fun j hj => ?_
  interval_cases j <;> simp [encode, rowOf, put]

theorem sti (sr : RegIdx) (off : Word) : Statement (.sti sr off) := by
  refine word_eq fun j hj => ?_
  interval_cases j <;> simp [encode, rowOf, put]

theorem res (x : BitVec 12) : Statement (.res x) := by
  refine word_eq fun j hj => ?_
  interval_cases j <;> simp [encode, rowOf, put]

theorem lea (dr : RegIdx) (off : Word) : Statement (.lea dr off) := by
  refine word_eq fun j hj => ?_
  interval_cases j <;> simp [encode, rowOf, put]

theorem trap (v : Word) : Statement (.trap v) := by
  refine word_eq fun j hj => ?_
  interval_cases j <;> simp [encode, rowOf, put]

end Sys2Proof.Laws.RowMatch
end

