-- ==== Sys2Proof/Tests/Slice0.lean ====
section
/-! SUPPORT. Tests. Expected results come from spec/95_test_vectors.md (the vector's id stands in the
comment) or are worked out by hand from the rule named; each runs one step. Then, for every statement with
hypotheses, a witness that meets them. -/

namespace Sys2Proof.Tests

open Sys2Proof.Machine

/-! ### Helpers -/

/-- The next state, or the reset state where there is none. -/
def after : Host.Outcome State Fault Refusal → State
  | .next s => s
  | _ => State.reset

/-- After reset, with PC and the word there, and a host that lets the first step go on. -/
def code (pc w : Word) : State := (State.reset.setPc pc).placeAtPc w

/-- The step from a state. -/
def run1 (s : State) : State := after (step s)

/-- With a COND value. -/
def withCond (s : State) (c : Word) : State := { s with cond := c }

/-- With the keyboard's next answer settled. -/
def withKey (s : State) (k : Option Word) : State := { s with keyboard := { answers := [k], draws := 0 } }

/-- With the console's next character settled. -/
def withChar (s : State) (k : Option Word) : State := { s with consoleIn := { answers := [k], draws := 0 } }

/-- With the host's decisions for the next boundaries settled. -/
def withHost (s : State) (l : List Bool) : State := { s with host := { answers := l, draws := 0 } }

/-- With an external service at vector 0x30 and what it does when called next settled. -/
def withService (s : State) (ws : List RegIdx) (wc : Bool) (r : ServiceReply) : State :=
  { s with cfg := { s.cfg with trapService := [(0x30, .external ws wc)] }, services := { answers := [r], draws := 0 } }

/-- A reply that writes `v` to every register it may, and flag `c`, reading `n` characters. -/
def reply (v : Word) (c : BitVec 3) (n : Nat) (e : ServiceEnd) : ServiceReply :=
  { regs := Vector.replicate 8 v, cond := c, reads := n, output := [.char 0x21], outcome := e }

/-- The strict variant. -/
def strict (s : State) : State := { s with cfg := { s.cfg with illegalPolicy := .fault } }

/-- Without the TRAP link. -/
def unlinked (s : State) : State := { s with cfg := { s.cfg with trapLinkR7 := false } }

/-! ### WellFormed: one ill-formed instruction for each check -/

theorem test_wf_addImm : (Instr.addImm 0 0 16).wellFormed = false := by decide
theorem test_wf_andImm : (Instr.andImm 0 0 0xFFEF).wellFormed = false := by decide
theorem test_wf_br : (Instr.br 7 256).wellFormed = false := by decide
theorem test_wf_jsr : (Instr.jsr 1024).wellFormed = false := by decide
theorem test_wf_ld : (Instr.ld 0 0xFEFF).wellFormed = false := by decide
theorem test_wf_st : (Instr.st 0 256).wellFormed = false := by decide
theorem test_wf_ldr : (Instr.ldr 0 1 32).wellFormed = false := by decide
theorem test_wf_str : (Instr.str 0 1 0xFFDF).wellFormed = false := by decide
theorem test_wf_ldi : (Instr.ldi 0 256).wellFormed = false := by decide
theorem test_wf_sti : (Instr.sti 0 256).wellFormed = false := by decide
theorem test_wf_lea : (Instr.lea 0 256).wellFormed = false := by decide
theorem test_wf_trap : (Instr.trap 256).wellFormed = false := by decide
theorem test_wf_accepts_bounds : (Instr.addImm 0 0 0xFFF0).wellFormed = true ∧ (Instr.br 7 0xFF00).wellFormed = true ∧
    (Instr.jsr 1023).wellFormed = true ∧ (Instr.ldr 0 1 31).wellFormed = true ∧ (Instr.trap 255).wellFormed = true := by
  decide

/-! ### Decoding: one word per constructor, bit by bit from R50 -/

theorem test_decode_addReg : decode 0b0001010000000001#16 = .addReg 2 0 1 := by decide
theorem test_decode_addImm : decode 0b0001000001111101#16 = .addImm 0 1 0xFFFD := by decide
theorem test_decode_andReg : decode 0b0101010000000001#16 = .andReg 2 0 1 := by decide
theorem test_decode_andImm : decode 0b0101000000110000#16 = .andImm 0 0 0xFFF0 := by decide
theorem test_decode_notReg : decode 0b1001011010111111#16 = .notReg 3 2 := by decide
theorem test_decode_br : decode 0b0000010111111101#16 = .br 2 0xFFFD := by decide
theorem test_decode_jmp : decode 0b1100000010000000#16 = .jmp 2 := by decide
theorem test_decode_jsr : decode 0b0100110000000000#16 = .jsr 0xFC00 := by decide
theorem test_decode_jsrr : decode 0b0100000011000000#16 = .jsrr 3 := by decide
theorem test_decode_ld : decode 0b0010000111111111#16 = .ld 0 0xFFFF := by decide
theorem test_decode_st : decode 0b0011000100000000#16 = .st 0 0xFF00 := by decide
theorem test_decode_ldr : decode 0b0110000001100000#16 = .ldr 0 1 0xFFE0 := by decide
theorem test_decode_str : decode 0b0111000001111111#16 = .str 0 1 0xFFFF := by decide
theorem test_decode_rti : decode 0b1000000000000000#16 = .rti 0 := by decide
theorem test_decode_ldi : decode 0b1010001000010011#16 = .ldi 1 19 := by decide
theorem test_decode_sti : decode 0b1011011000000010#16 = .sti 3 2 := by decide
theorem test_decode_res : decode 0b1101000100100011#16 = .res 0x123 := by decide
theorem test_decode_lea : decode 0b1110001000000101#16 = .lea 1 5 := by decide
theorem test_decode_trap : decode 0b1111000000100101#16 = .trap 0x25 := by decide

/-- R56 (vectors ADD-7, NOT-4, JMP-3, TRAP-6): unused bits are ignored. -/
theorem test_decode_unused : decode 0x1019#16 = decode 0x1001#16 ∧ decode 0x9280#16 = decode 0x92BF#16 ∧
    decode 0xCE8F#16 = decode 0xC080#16 ∧ decode 0xFF25#16 = decode 0xF025#16 := by decide

/-- The opcode table's numbering: one word, bit 0 first; no longer row. -/
theorem test_decodeTableWord : decodeTableWord 16 0x107D = some (.addImm 0 1 0xFFFD) ∧ decodeTableWord 32 0 = none := by
  decide

/-! ### Encoding (canonical words of R50 and R70 to R92) -/

theorem test_encode : encode (.notReg 1 2) = 0x92BF#16 ∧ encode (.jmp 7) = 0xC1C0#16 ∧ encode (.jsrr 3) = 0x40C0#16 ∧
    encode (.br 2 0xFFFD) = 0x05FD#16 ∧ encode (.trap 0x25) = 0xF025#16 := by decide

/-! ### Sign extension (SX-1 to SX-9, W1, W2) -/

theorem test_sext : sext 0b11111#5 = 0xFFFF#16 ∧ sext 0b01111#5 = 0x000F#16 ∧ sext 0b10000#5 = 0xFFF0#16 ∧
    sext 0b100000#6 = 0xFFE0#16 ∧ sext 0x100#9 = 0xFF00#16 ∧ sext 0x0FF#9 = 0x00FF#16 ∧
    sext 0x400#11 = 0xFC00#16 ∧ sext 0x3FF#11 = 0x03FF#16 := by decide

/-- CC-1 to CC-5. -/
theorem test_setCC : condOf 0x0000#16 = 2#16 ∧ condOf 0x0001#16 = 1#16 ∧ condOf 0x7FFF#16 = 1#16 ∧
    condOf 0x8000#16 = 4#16 ∧ condOf 0xFFFF#16 = 4#16 := by decide

/-! ### Operate -/

/-- ADD-2: signed overflow wraps and sets N. -/
theorem test_add_overflow :
    let t := run1 (((code 0x3000 0x1401).setReg 0 0x7FFF).setReg 1 1)
    t.reg 2 = 0x8000#16 ∧ t.cond = 4#16 ∧ t.pc = 0x3001#16 := by decide
/-- ADD-4: the same register three times. -/
theorem test_add_same : (run1 ((code 0x3000 0x1241).setReg 1 0x4000)).reg 1 = 0x8000#16 := by decide
/-- ADD-5: the most negative immediate. -/
theorem test_addImm_low :
    let t := run1 ((code 0x3000 0x1030).setReg 0 0x0010)
    t.reg 0 = 0#16 ∧ t.cond = 2#16 := by decide
/-- ADD-6: the most positive immediate, wrapping. -/
theorem test_addImm_high : (run1 ((code 0x3000 0x102F).setReg 0 0xFFF1)).cond = 2#16 := by decide
/-- AND-1. -/
theorem test_and :
    let t := run1 (((code 0x3000 0x5401).setReg 0 0xF0F0).setReg 1 0x0FF0)
    t.reg 2 = 0x00F0#16 ∧ t.cond = 1#16 := by decide
/-- AND-4: a negative immediate keeps the high bits. -/
theorem test_andImm_negative : (run1 ((code 0x3000 0x5030).setReg 0 0x1234)).reg 0 = 0x1230#16 := by decide
/-- AND-2: the clear idiom sets Z. -/
theorem test_andImm_clear :
    let t := run1 ((code 0x3000 0x5020).setReg 0 0x1234)
    t.reg 0 = 0#16 ∧ t.cond = 2#16 := by decide
/-- NOT-3 and NOT-1. -/
theorem test_not :
    let t := run1 ((code 0x3000 0x92BF).setReg 2 0x8000)
    t.reg 1 = 0x7FFF#16 ∧ t.cond = 1#16 := by decide
theorem test_not_in_place : (run1 (code 0x3000 0x903F)).reg 0 = 0xFFFF#16 := by decide

/-! ### Control -/

/-- BR-9: the most negative offset, taken. -/
theorem test_br_taken : (run1 (withCond (code 0x3000 0x0F00) 1)).pc = 0x2F01#16 := by decide
/-- BR-5 and BR-1: not taken. -/
theorem test_br_not_taken : (run1 (withCond (code 0x3000 0x0A05) 2)).pc = 0x3001#16 ∧
    (run1 (code 0x3000 0x0E05)).pc = 0x3001#16 := by decide
/-- JMP-1: the value, not the index. -/
theorem test_jmp_value : (run1 ((code 0x3000 0xC080).setReg 2 0x4000)).pc = 0x4000#16 := by decide
/-- JMP-2: RET. -/
theorem test_ret : (run1 ((code 0x3000 0xC1C0).setReg 7 0x3002)).pc = 0x3002#16 := by decide
/-- JSR-2. -/
theorem test_jsr :
    let t := run1 (code 0x3000 0x4C00)
    t.reg 7 = 0x3001#16 ∧ t.pc = 0x2C01#16 := by decide
/-- JSR-3: the flags are untouched. -/
theorem test_jsr_flags : (run1 (withCond (code 0x3000 0x4BFF) 4)).cond = 4#16 := by decide
/-- JSRR-1. -/
theorem test_jsrr :
    let t := run1 ((code 0x3000 0x40C0).setReg 3 0x5000)
    t.reg 7 = 0x3001#16 ∧ t.pc = 0x5000#16 := by decide
/-- JSRR-2: the link is written before BaseR is read. -/
theorem test_jsrr_r7 : (run1 ((code 0x3000 0x41C0).setReg 7 0x6000)).pc = 0x3001#16 := by decide

/-! ### Loads -/

/-- LD-6: the address wraps. -/
theorem test_ld_wraps : (run1 ((code 0xFFFE 0x2005).poke 4 9)).reg 0 = 9#16 := by decide
/-- LD-4: a load from the status register polls. -/
theorem test_ld_polls :
    let t := run1 (withKey (code 0xFDFF 0x2000) (some 0x41))
    t.reg 0 = 0x8000#16 ∧ t.cond = 4#16 ∧ t.peek 0xFE02 = 0x41#16 := by decide
/-- LDI-1, the source's example. -/
theorem test_ldi :
    let t := run1 (((code 0x0050 0xA213).poke 0x64 0xC8).poke 0xC8 0x2A)
    t.reg 1 = 0x2A#16 ∧ t.cond = 1#16 := by decide
/-- LDI-2: a pointer to the status register. -/
theorem test_ldi_polls :
    let t := run1 (withKey ((code 0x3000 0xA003).poke 0x3004 0xFE00) (some 0x61))
    t.reg 0 = 0x8000#16 ∧ t.peek 0xFE02 = 0x61#16 := by decide
/-- LDR-2: DR = BaseR. -/
theorem test_ldr_same : (run1 (((code 0x3000 0x66C0).setReg 3 0x4000).poke 0x4000 0x1234)).reg 3 = 0x1234#16 := by
  decide
/-- LDR-4: the most positive offset, wrapping. -/
theorem test_ldr_wraps : (run1 (((code 0x3000 0x605F).setReg 1 0xFFF0).poke 0x000F 5)).reg 0 = 5#16 := by decide
/-- LEA-2. -/
theorem test_lea_zero :
    let t := run1 (code 0x0000 0xE1FF)
    t.reg 0 = 0#16 ∧ t.cond = 2#16 := by decide
/-- LEA-4: no poll. -/
theorem test_lea_no_poll :
    let t := run1 (withKey (code 0xFDFF 0xE000) (some 0x41))
    t.reg 0 = 0xFE00#16 ∧ t.cond = 4#16 ∧ t.keyboard.draws = 0 := by decide

/-! ### Stores -/

/-- ST-3: wraps down. -/
theorem test_st_wraps : (run1 ((code 0x0010 0x3100).setReg 0 0xAA)).peek 0xFF11 = 0xAA#16 := by decide
/-- ST-4: a store to the status register is an ordinary store. -/
theorem test_st_status :
    let t := run1 ((code 0xFDFF 0x3000).setReg 0 0x1234)
    t.peek 0xFE00 = 0x1234#16 ∧ t.keyboard.draws = 0 := by decide
/-- STI-1. -/
theorem test_sti : (run1 (((code 0x3003 0xB602).poke 0x3006 0x4001).setReg 3 0xFFF9)).peek 0x4001 = 0xFFF9#16 := by
  decide
/-- STI-2: the pointer is overwritten. -/
theorem test_sti_self : (run1 (((code 0x3000 0xB000).poke 0x3001 0x3001).setReg 0 7)).peek 0x3001 = 7#16 := by decide
/-- STR-2: SR = BaseR. -/
theorem test_str_same : (run1 ((code 0x3000 0x7240).setReg 1 0x4000)).peek 0x4000 = 0x4000#16 := by decide
/-- STR-3: wraps down. -/
theorem test_str_wraps : (run1 ((code 0x3000 0x707F).setReg 0 0x55)).peek 0xFFFF = 0x55#16 := by decide

/-! ### TRAP, RTI, RES, fetch, host stop -/

/-- TRAP-1 and TRAP-2: HALT, with and without the link. -/
theorem test_trap_halt :
    let t := run1 (code 0x3006 0xF025)
    t.run = .halted ∧ t.pc = 0x3007#16 ∧ t.reg 7 = 0x3007#16 := by decide
theorem test_trap_unlinked : (run1 (unlinked ((code 0x3006 0xF025).setReg 7 0x1234))).reg 7 = 0x1234#16 := by decide
/-- TRAP-3: GETC. -/
theorem test_getc :
    let t := run1 (withChar (code 0x3000 0xF020) (some 0x41))
    t.reg 0 = 0x41#16 ∧ t.cond = 1#16 ∧ t.reg 7 = 0x3001#16 ∧ t.pc = 0x3001#16 := by decide
/-- TRAP-4: OUT. -/
theorem test_out : (run1 (withCond ((code 0x3000 0xF021).setReg 0 0x41) 4)).consoleOut = [.char 0x41] := by decide
/-- PUTSP by hand from R90: low half, then the high half where it is not zero. -/
theorem test_putsp :
    (run1 (((code 0x3000 0xF024).setReg 0 0x4000).poke 0x4000 0x4241 |>.poke 0x4001 0x0043)).consoleOut =
      [.char 0x41, .char 0x42, .char 0x43] := by decide
/-- TRAP-7: CONSOLE_IN never answers. -/
theorem test_getc_waits : step (withChar (code 0x3000 0xF020) none) = .fault .consoleNeverAnswers := by rfl
/-- R90's contract: of an external service's reply only what its row lists is written (here R2, not COND). -/
theorem test_external :
    let t := run1 (withService (withCond (code 0x3000 0xF030) 2) [2] false (reply 9 4 0 .resume))
    t.reg 2 = 9#16 ∧ t.reg 3 = 0#16 ∧ t.reg 7 = 0x3001#16 ∧ t.cond = 2#16 ∧ t.pc = 0x3001#16 ∧ t.run = .running := by
  decide
/-- R89: an external service that halts, and one that gives no outcome. -/
theorem test_external_halts :
    (run1 (withService (code 0x3000 0xF030) [] true (reply 9 4 0 .halt))).run = .halted ∧
    (run1 (withService (code 0x3000 0xF030) [] true (reply 9 4 0 .halt))).cond = 4#16 := by decide
theorem test_external_never :
    step (withService (code 0x3000 0xF030) [] true (reply 9 4 0 .never)) = .fault .serviceNeverReturns := by rfl

/-- A `TRAP_SERVICE` relation given by hand: vector 0x20 reads a character into R0 without `SetCC`; vector 0x25 halts
only while COND is ZERO. -/
def handService : TrapService := fun v s =>
  if v = 0x20 then
    match s.charAnswer with
    | some k => .resume (s.askConsole.setReg 0 k)
    | none => .never .consoleNeverAnswers
  else if v = 0x25 ∧ s.cond = 2#16 then .halt s
  else .resume s

/-- R7, R89: the model under that relation. -/
theorem test_under_getc :
    let t := after (stepUnder handService (withChar (withCond (code 0x3000 0xF020) 4) (some 0x41)))
    t.reg 0 = 0x41#16 ∧ t.cond = 4#16 ∧ t.reg 7 = 0x3001#16 := by decide
theorem test_under_halt :
    (after (stepUnder handService (withCond (code 0x3000 0xF025) 2))).run = .halted ∧
    (after (stepUnder handService (withCond (code 0x3000 0xF025) 1))).run = .running := by decide
/-- RTI-1 and RTI-2. -/
theorem test_rti : (run1 (code 0x3000 0x8000)) = ((code 0x3000 0x8000).setPc 0x3001).passBoundary := by decide
theorem test_rti_strict :
    let t := run1 (strict (code 0x3000 0x8000))
    t.run = .faulted 0x3000 0x8000 ∧ t.pc = 0x3001#16 := by decide
/-- RES-1, and P4's strict variant. -/
theorem test_res : (run1 (code 0x0002 0xD123)).pc = 0x0003#16 := by decide
theorem test_res_strict : (run1 (strict (code 0x0002 0xD123))).run = .faulted 0x0002 0xD123 := by decide
/-- FE-1: a fetch from the status register polls; the word fetched is 0x8000, a no-op. -/
theorem test_fetch_polls :
    let t := run1 (withKey (code 0xFE00 0) (some 0x41))
    t.peek 0xFE02 = 0x41#16 ∧ t.pc = 0xFE01#16 := by decide
/-- FE-3. -/
theorem test_fetch_wraps : (run1 (code 0xFFFF 0x1021)).pc = 0x0000#16 := by decide
/-- HS-1. -/
theorem test_host_stop :
    let s : State := withHost (code 0x3000 0x1021) [true]
    run1 s = { s with run := .halted } := by decide
/-- The first instruction after reset, placed by withFetchWord (W4's word; R1 is 0 after reset). -/
theorem test_withFetchWord : (run1 (State.reset.withFetchWord 16 0x107D)).reg 0 = 0xFFFD#16 := by decide
/-- R107: two images, the second over the first. -/
theorem test_boot_overlap :
    (boot defaultConfig [[0x3000, 1, 2], [0x3001, 7]]).map (fun s => (s.peek 0x3000, s.peek 0x3001, s.pc)) =
      some (1#16, 7#16, 0x3000#16) := by decide
/-- D16: an image past 0xFFFF is refused. -/
theorem test_boot_refuses : boot defaultConfig [[0xFFFF, 1, 2]] = none := by decide

/-! ### Witnesses: a state and operands that meet the hypotheses of each statement -/

theorem witness_DecodeOfEncode : (Instr.addImm 1 2 0xFFF0).wellFormed = true ∧ (Instr.jsr 0x03FF).wellFormed = true := by
  decide
theorem witness_EveryWordMatchesOneRow : (0xF020#16, 0x1000#16) ∈ opcodeRows := by decide
theorem witness_UnusedBitsIgnored : (0x0018#16 &&& unusedBits 0x1001#16 = 0x0018#16) ∧
    (0x0FFF#16 &&& unusedBits 0x8000#16 = 0x0FFF#16) ∧ (0x0FFF#16 &&& unusedBits 0xD000#16 = 0x0FFF#16) ∧
    State.reset.cfg.illegalPolicy = .inert ∧ (strict State.reset).cfg.illegalPolicy = .fault := by decide
theorem witness_SignExtensionFormula : (0 < 5 ∧ 5 ≤ 16) ∧ (0 < 16 ∧ 16 ≤ 16) := by decide
theorem witness_ImageLoadsAtOrigin : (0xFFFE#16).toNat + [1#16, 2#16].length ≤ 65536 ∧
    65536 < (0xFFFF#16).toNat + [1#16, 2#16].length := by decide
theorem witness_BootState : (boot defaultConfig [[0x3000, 0x5020]]).isSome = true := by decide
theorem witness_MemReadElsewhereIsPlain : (0xFE01#16) ≠ State.reset.cfg.kbsrAddr := by decide
theorem witness_StatusReadPolls : (withKey State.reset (some 0x41)).keyAnswer = some 0x41#16 ∧
    (withKey State.reset none).keyAnswer = none := by decide
theorem witness_DataRegisterHoldsKey : State.reset.cfg.kbdrAddr ≠ State.reset.cfg.kbsrAddr ∧
    (withKey State.reset (some 0x41)).keyAnswer = some 0x41#16 := by decide
theorem witness_EqualReadsEqualMemory : Memory.wf [(0, 1#16), (65535, 2#16)] = true := by decide
/-- Words that meet the opcode and mode hypotheses of the statements about one instruction's encoding. -/
theorem witness_opcodes : (0x1401#16).extractLsb' 12 4 = 0x1#4 ∧ (0x5401#16).extractLsb' 12 4 = 0x5#4 ∧
    (0x92BF#16).extractLsb' 12 4 = 0x9#4 ∧ (0x05FD#16).extractLsb' 12 4 = 0x0#4 ∧ (0xC1C0#16).extractLsb' 12 4 = 0xC#4 ∧
    (0x2005#16).extractLsb' 12 4 = 0x2#4 ∧ (0xA213#16).extractLsb' 12 4 = 0xA#4 ∧ (0x6040#16).extractLsb' 12 4 = 0x6#4 ∧
    (0xE205#16).extractLsb' 12 4 = 0xE#4 ∧ (0x3001#16).extractLsb' 12 4 = 0x3#4 ∧ (0xB602#16).extractLsb' 12 4 = 0xB#4 ∧
    (0x7041#16).extractLsb' 12 4 = 0x7#4 ∧ (0xF025#16).extractLsb' 12 4 = 0xF#4 ∧ (0x8000#16).extractLsb' 12 4 = 0x8#4 ∧
    (0xD123#16).extractLsb' 12 4 = 0xD#4 := by decide
theorem witness_JsrLinksAndJumps : (0x4802#16).extractLsb' 12 4 = 0x4#4 ∧ (0x4802#16).getLsbD 11 = true := by decide
theorem witness_JsrrLinksThenJumps : (0x40C0#16).extractLsb' 12 4 = 0x4#4 ∧ (0x40C0#16).getLsbD 11 = false := by decide
theorem witness_BranchFallsThrough : State.reset.cond = 0x0000#16 := by decide
theorem witness_RetReturnsAfterJsr : ∃ t u, exec (.jsr 2) State.reset = .next t ∧ u.reg 7#3 = t.reg 7#3 ∧ u ≠ t :=
  ⟨_, after (exec (.jsr 3) State.reset), rfl, by decide, by decide⟩
/-- The last address before and after the status register: a load there is no poll. -/
theorem witness_LoadedFrom : State.reset.pcRel 0xCDFF#16 ≠ State.reset.cfg.kbsrAddr ∧
    State.reset.pcRel 0xCE01#16 ≠ State.reset.cfg.kbsrAddr := by decide
theorem witness_StiStoresThroughPointer : (0x3000#16 + 0x00FF#16) ≠ State.reset.cfg.kbsrAddr := by decide
theorem witness_DefaultVectors : (0x1F#16).toNat < 0x20 ∧ 0x25 < (0x26#16).toNat := by decide
theorem witness_TrapInputServices : State.reset.service 0x20 = .getc ∧ State.reset.service 0x23 = .inp ∧
    (withChar State.reset (some 0x41)).charAnswer = some 0x41#16 := by decide
theorem witness_TrapOutAndUnknown : State.reset.service 0x21 = .out ∧ State.reset.service 0xFF = .unknown := by decide
/-- A string of two words, and the empty string. -/
theorem witness_TrapStringServices :
    let s := ((State.reset.setReg 0 0xFFFF).poke 0xFFFF 0x41).poke 0x0000 0x42
    State.reset.service 0x22 = .puts ∧ State.reset.service 0x24 = .putsp ∧
    (∀ j < 2, s.peek (s.reg 0#3 + BitVec.ofNat 16 j) ≠ 0x0000#16) ∧ s.peek (s.reg 0#3 + BitVec.ofNat 16 2) = 0x0000#16 ∧
    State.reset.peek (State.reset.reg 0#3 + BitVec.ofNat 16 0) = 0x0000#16 := by decide
theorem witness_TrapHaltHalts : State.reset.service 0x25 = .halt := by decide
theorem witness_TrapKeepsContract : (∃ t, exec (.trap 0x25) State.reset = .next t) ∧
    ∃ t, exec (.trap 0x30) (withService State.reset [2] true (reply 9 4 0 .resume)) = .next t ∧ t.cond ≠ State.reset.cond :=
  ⟨⟨_, rfl⟩, _, rfl, by decide⟩
theorem witness_ReservedOpcodesFollowPolicy : State.reset.cfg.illegalPolicy = .inert ∧
    (strict State.reset).cfg.illegalPolicy = .fault := by decide

/-- A state whose memory lists 0x0041 at the addresses below `n`. -/
def filled (n : Nat) : State := { State.reset with mem := (List.range n).map (fun a => (a, 0x0041#16)) }

theorem read_const (l : List Nat) (a : Nat) (h : a ∈ l) :
    Memory.read (l.map (fun a => (a, 0x0041#16))) a = 0x0041#16 := by
  induction l with
  | nil => cases h
  | cons b l ih =>
    rw [List.map_cons, Memory.read]
    by_cases e : a = b
    · rw [if_pos e]
    · rw [if_neg e]
      exact ih ((List.mem_cons.1 h).resolve_left e)

theorem filled_peek (n : Nat) (a : Word) (h : a.toNat < n) : (filled n).peek a = 0x0041#16 :=
  read_const _ _ (List.mem_range.2 h)

theorem filled_never (n : Nat) (hn : n = 65536) (v : Word)
    (h : serviceAt defaultConfig.trapService v = .puts ∨ serviceAt defaultConfig.trapService v = .putsp) :
    TrapNeverReturns (filled n) v := by
  refine .inr (.inl ⟨h, fun a => ?_⟩)
  rw [filled_peek n a (by have := a.isLt; omega)]
  decide

theorem witness_EveryInstructionCompletes : TrapNeverReturns (withChar State.reset none) 0x20 ∧
    TrapNeverReturns (withChar State.reset none) 0x23 ∧ TrapNeverReturns (filled 65536) 0x22 ∧ TrapNeverReturns (filled 65536) 0x24 ∧
    TrapNeverReturns (withService State.reset [] false (reply 0 0 0 .never)) 0x30 ∧
    TrapNeverReturns (withService (withChar State.reset none) [] false (reply 0 0 1 .resume)) 0x30 :=
  ⟨.inl (by decide), .inl (by decide), filled_never _ rfl _ (by decide), filled_never _ rfl _ (by decide),
    .inr (.inr ⟨⟨_, _, rfl⟩, .inr rfl⟩), .inr (.inr ⟨⟨_, _, rfl⟩, .inl ⟨0, Nat.zero_lt_one, rfl⟩⟩)⟩

/-- An external service that resumes after one character, and one that halts. -/
theorem witness_TrapUnderAnyService :
    (let s := withService (withChar State.reset (some 0x41)) [0, 7] true (reply 0x41 1 1 .resume);
      s.service 0x30 = .external [0, 7] true ∧ (∀ k < (s.trapReply 0x30).reads, s.charAhead k ≠ none) ∧
        (s.trapReply 0x30).outcome ≠ .never) ∧
    (let s := withService State.reset [] false (reply 0 0 0 .halt);
      s.service 0x30 = .external [] false ∧ (∀ k < (s.trapReply 0x30).reads, s.charAhead k ≠ none) ∧
        (s.trapReply 0x30).outcome = .halt) := by decide
theorem witness_TrapUnderAnyService_relation :
    (∃ t, handService 0x20 (withChar State.reset (some 0x41)).trapEntry = .resume t) ∧
    (∃ t, handService 0x25 (withCond State.reset 2).trapEntry = .halt t) ∧
    (∃ why, handService 0x20 (withChar State.reset none).trapEntry = .never why) ∧ ∀ v, Instr.jmp 3 ≠ .trap v :=
  ⟨⟨_, rfl⟩, ⟨_, rfl⟩, ⟨_, rfl⟩, fun _ h => by cases h⟩
/-- `handService` keeps the contract, and under it a TRAP and a step have a next state. -/
theorem witness_TrapKeepsContract_relation : ServiceContract handService ∧
    (∃ t, execUnder handService (.trap 0x25) State.reset = .next t) ∧
    (code 0x3000 0xF025).Inv ∧ ∃ t, stepUnder handService (code 0x3000 0xF025) = .next t := by
  refine ⟨fun v s t h => ?_, ⟨_, rfl⟩, by decide, ⟨_, rfl⟩⟩
  simp only [handService] at h
  split at h
  · split at h <;> simp at h
    subst h; exact ⟨rfl, rfl, rfl, rfl, rfl, rfl, id⟩
  · split at h <;> simp at h <;> subst h <;> exact ⟨rfl, rfl, rfl, rfl, rfl, rfl, id⟩

theorem witness_CondChangesOnlyByFlagSetters :
    (∃ t, exec (.trap 0x20) (withChar State.reset (some 0)) = .next t ∧ t.cond ≠ State.reset.cond) ∧
    (∃ t, exec (.notReg 0 0) State.reset = .next t ∧ flagDest (.notReg 0 0) = some 0) :=
  ⟨⟨_, rfl, by decide⟩, ⟨_, rfl, rfl⟩⟩
theorem witness_ExactlyOneFlagAfterSetting : flagDest (.lea 3 0) ≠ none ∧ ∃ t, exec (.lea 3 0) State.reset = .next t :=
  ⟨by decide, _, rfl⟩
theorem witness_OnlyBranchReadsCond :
    ((∀ nzp off, Instr.jmp 3 ≠ .br nzp off) ∧ (∀ v, Instr.jmp 3 ≠ .trap v) ∧ ∃ t, exec (.jmp 3) State.reset = .next t) ∧
    (let s := withService State.reset [] true (reply 0 4 0 .resume);
      s.service 0x30 = .external [] true ∧ ({ s with cond := 1 } : State).trapReply 0x30 = s.trapReply 0x30 ∧
        ∃ t, exec (.trap 0x30) s = .next t) :=
  ⟨⟨fun _ _ h => (by cases h), fun _ h => (by cases h), _, rfl⟩, rfl, rfl, _, rfl⟩
theorem witness_RegistersWrittenAsListed : ∃ t, exec (.jsr 5) State.reset = .next t ∧ (6#3) ∉ mayWrite State.reset (.jsr 5) :=
  ⟨_, rfl, by decide⟩
theorem witness_PcWrittenByControlOnly :
    (∃ t, exec (.br 2 5) (withCond State.reset 2) = .next t ∧ t.pc ≠ State.reset.pc) ∧
    (∃ t, exec (.jmp 0) State.reset = .next t ∧ t.pc ≠ State.reset.pc) ∧
    (∃ t, exec (.jsr 5) State.reset = .next t ∧ t.pc ≠ State.reset.pc) ∧
    (∃ t, exec (.jsrr 0) State.reset = .next t ∧ t.pc ≠ State.reset.pc) :=
  ⟨⟨_, rfl, by decide⟩, ⟨_, rfl, by decide⟩, ⟨_, rfl, by decide⟩, ⟨_, rfl, by decide⟩⟩
theorem witness_MemoryChangesOnlyByStoreOrPoll :
    (∃ t, exec (.st 0 1) (State.reset.setReg 0 9) = .next t ∧ t.peek 0x3001 ≠ State.reset.peek 0x3001) ∧
    (∃ t, exec (.ldr 0 1 0) ((withKey State.reset (some 0x41)).setReg 1 0xFE00) = .next t ∧
      t.peek 0xFE02 ≠ State.reset.peek 0xFE02) := ⟨⟨_, rfl, by decide⟩, ⟨_, rfl, by decide⟩⟩
theorem witness_OnlyOraclesAreFree :
    ∃ t, step (code 0x3000 0x1021) = .next t ∧ t.keyboard = State.reset.keyboard ∧ t.consoleIn = State.reset.consoleIn ∧
      t.services = State.reset.services := ⟨_, rfl, rfl, rfl, rfl⟩
theorem witness_StepRunsDecodedInstruction :
    let s := withHost State.reset [false]
    s.run = .running ∧ s.hostStops = false ∧ s.pc ≠ s.cfg.kbsrAddr := by decide
theorem witness_FetchAtStatusPolls :
    let s := withHost (State.reset.setPc 0xFE00) [false]
    s.run = .running ∧ s.hostStops = false ∧ s.pc = s.cfg.kbsrAddr ∧ (withKey s (some 0x41)).keyAnswer = some 0x41#16 ∧
      (withKey s none).keyAnswer = none := by decide
theorem witness_StoreSeenByNextFetch :
    let s := withHost (State.reset.setReg 0 0x1021) [false]
    ∃ t, storeAddr s (.st 0 0) = some s.pc ∧ exec (.st 0 0) s = .next t ∧ t.pc = s.pc ∧ s.pc ≠ t.cfg.kbsrAddr ∧
      t.run = .running ∧ t.hostStops = false := ⟨_, rfl, rfl, rfl, by decide, rfl, rfl⟩
theorem witness_StoppedStays : State.reset.halt.run ≠ .running ∧ (State.reset.raiseIllegalOpcode 0).run ≠ .running := by
  decide
theorem witness_HostStopHalts :
    let s := withHost State.reset [true]
    s.run = .running ∧ s.hostStops = true := by decide
theorem witness_HostStopAtEveryBoundary :
    let s := withHost State.reset [false, true]
    ∃ t : State, s.host.answers = List.replicate 1 false ++ [true] ∧ core.run 1 s = .next t ∧ t.run = .running :=
  ⟨_, rfl, rfl, rfl⟩
theorem witness_HostStopAtEveryBoundary_boot : ∃ s t : State, boot defaultConfig [[0x3000, 0x5020]] = some s ∧
    core.run 0 s = .next t ∧ t.run = .running := ⟨_, _, rfl, rfl, rfl⟩
theorem witness_HaltedOnlyByServiceOrHost :
    (∃ t, step (withService (code 0x3000 0xF030) [] false (reply 0 0 0 .halt)) = .next t ∧ t.run = .halted) ∧
    (∃ t, step (withHost (code 0x3000 0x1021) [true]) = .next t ∧ t.run = .halted) ∧ ∃ t, step (code 0x3000 0xF025) = .next t ∧ t.run = .halted ∧
    (code 0x3000 0xF025).run = .running := ⟨⟨_, rfl, rfl⟩, ⟨_, rfl, rfl⟩, _, rfl, rfl, rfl⟩
theorem witness_FaultedOnlyByReservedOpcode : ∃ t, step (strict (code 0x3000 0x8000)) = .next t ∧
    t.run = .faulted 0x3000 0x8000 ∧ (strict (code 0x3000 0x8000)).run = .running := ⟨_, rfl, rfl, rfl⟩
theorem witness_StepKeepsParameters : (∃ t, step (code 0x3000 0x1021) = .next t) ∧
    ∃ t, step State.reset.halt = .next t ∧ State.reset.halt.run ≠ .running := ⟨⟨_, rfl⟩, ⟨_, rfl, by decide⟩⟩
theorem witness_ResetMeetsInvariant : defaultConfig.condReset &&& 0xFFF8#16 = 0x0000#16 := by decide
theorem witness_StepKeepsInvariant : (code 0x3000 0x3001).Inv ∧ ∃ t, step (code 0x3000 0x3001) = .next t :=
  ⟨by decide, _, rfl⟩

end Sys2Proof.Tests
end

section
/-! PROOFS of the family 00_scope: sign extension (R10), the parameters through a step (R7, R26), and TRAP
beyond the default services (R88 to R90). -/

namespace Sys2Proof.Machine

/-! ### Sign extension (R10) -/

/-- The spec's mask `0xFFFF << N` holds exactly the bits of a word from `N` up. -/
theorem getLsbD_ones_shiftLeft (n i : Nat) (hi : i < 16) : (0xFFFF#16 <<< n).getLsbD i = decide (n ≤ i) := by
  have ones : 0xFFFF#16 = BitVec.allOnes 16 := rfl
  rw [ones, BitVec.getLsbD_shiftLeft, BitVec.getLsbD_allOnes]
  by_cases h : n ≤ i
  · have : i - n < 16 := by omega
    simp [h, hi, this]
  · simp [h]

theorem sext_eq_formula {n : Nat} (v : BitVec n) :
    sext v = if v.getLsbD (n - 1) = true then v.setWidth 16 ||| (0xFFFF#16 <<< n) else v.setWidth 16 := by
  rw [sext, ← BitVec.msb_eq_getLsbD_last]
  by_cases hmsb : v.msb = true
  · rw [if_pos hmsb]
    apply BitVec.eq_of_getLsbD_eq
    intro i hi
    rw [BitVec.getLsbD_signExtend, hmsb, BitVec.getLsbD_or, BitVec.getLsbD_setWidth, getLsbD_ones_shiftLeft n i hi]
    by_cases hlow : i < n
    · have : ¬ n ≤ i := by omega
      simp [hi, hlow, this]
    · have : n ≤ i := by omega
      simp [hi, hlow, this]
  · rw [if_neg hmsb]
    exact BitVec.signExtend_eq_setWidth_of_msb_false (Bool.eq_false_of_not_eq_true hmsb)

/-- Settles O7, by the field's top bit. The formula needs neither bound on the width. -/
theorem signExtensionFormula : Obligations.SignExtensionFormula := by
  unfold Obligations.SignExtensionFormula
  intro n v _ _
  exact sext_eq_formula v

/-! ### The parameters through a step (R7) -/

theorem State.reservedOpcode_cfg (s : State) (w : Word) : (s.reservedOpcode w).cfg = s.cfg := by
  obtain ⟨_, e⟩ | ⟨_, e⟩ := s.reservedOpcode_cases w <;> simp [e]

/-- No trap service can write the parameters. -/
theorem exec_trap_keeps_cfg {v : Word} {s t : State} (h : exec (.trap v) s = .next t) : t.cfg = s.cfg := by
  obtain ⟨k, _, _, rfl⟩ | ⟨k, _, _, rfl⟩ | ⟨es, _, rfl⟩ | ⟨_, rfl⟩ | ⟨_, rfl⟩ |
    ⟨ws, wc, _, _, ⟨_, rfl⟩ | ⟨_, rfl⟩⟩ := exec_trap_cases h
  all_goals simp

/-- Every instruction but TRAP always completes, with the parameters as they were. -/
theorem exec_next_keeps_cfg (i : Instr) (s : State) (hi : ∀ v, i ≠ .trap v) :
    ∃ t, exec i s = .next t ∧ t.cfg = s.cfg := by
  cases i with
  | addReg dr sr1 sr2 => exact ⟨_, exec_addReg dr sr1 sr2 s, by simp⟩
  | addImm dr sr1 imm => exact ⟨_, exec_addImm dr sr1 imm s, by simp⟩
  | andReg dr sr1 sr2 => exact ⟨_, exec_andReg dr sr1 sr2 s, by simp⟩
  | andImm dr sr1 imm => exact ⟨_, exec_andImm dr sr1 imm s, by simp⟩
  | notReg dr sr => exact ⟨_, exec_notReg dr sr s, by simp⟩
  | br nzp off => exact ⟨_, exec_br nzp off s, by split <;> simp⟩
  | jmp b => exact ⟨_, exec_jmp b s, by simp⟩
  | jsr off => exact ⟨_, exec_jsr off s, by simp⟩
  | jsrr b => exact ⟨_, exec_jsrr b s, by simp⟩
  | ld dr off => exact ⟨_, exec_ld dr off s, by simp⟩
  | st sr off => exact ⟨_, exec_st sr off s, by simp⟩
  | ldr dr b off => exact ⟨_, exec_ldr dr b off s, by simp⟩
  | str sr b off => exact ⟨_, exec_str sr b off s, by simp⟩
  | rti x => exact ⟨_, exec_rti x s, State.reservedOpcode_cfg s _⟩
  | ldi dr off => exact ⟨_, exec_ldi dr off s, by simp⟩
  | sti sr off => exact ⟨_, exec_sti sr off s, by simp⟩
  | res x => exact ⟨_, exec_res x s, State.reservedOpcode_cfg s _⟩
  | lea dr off => exact ⟨_, exec_lea dr off s, by simp⟩
  | trap v => exact absurd rfl (hi v)

theorem exec_keeps_cfg {i : Instr} {s t : State} (h : exec i s = .next t) : t.cfg = s.cfg := by
  by_cases hi : ∃ v, i = .trap v
  · obtain ⟨v, rfl⟩ := hi
    exact exec_trap_keeps_cfg h
  · obtain ⟨u, hu, hcfg⟩ := exec_next_keeps_cfg i s (fun v e => hi ⟨v, e⟩)
    obtain rfl : u = t := Host.Outcome.next.inj (hu.symm.trans h)
    exact hcfg

/-- Settles O57, by what a step can do: nothing, a host stop, or the instruction it fetches. -/
theorem stepKeepsParameters : Obligations.StepKeepsParameters := by
  unfold Obligations.StepKeepsParameters
  intro s t h
  obtain ⟨_, rfl⟩ | ⟨hrun, _, rfl⟩ | ⟨hrun, _, hexec⟩ := step_cases h
  · exact ⟨rfl, fun _ => rfl⟩
  · exact ⟨State.hostStop_cfg s, fun hstopped => absurd hrun hstopped⟩
  · refine ⟨?_, fun hstopped => absurd hrun hstopped⟩
    rw [exec_keeps_cfg hexec]
    simp

/-! ### TRAP to an external service (R89, R90) -/

theorem State.charsCome_iff (s : State) (n : Nat) : s.charsCome n = true ↔ ∀ k < n, s.charAhead k ≠ none := by
  simp [State.charsCome, Option.isSome_iff_ne_none]

/-- A service sees the link write in R7 and every other register as it was (R98). -/
theorem State.trapEntry_reg_linkedR7 (s : State) (q : RegIdx) :
    s.trapEntry.reg q = if q = 7#3 then linkedR7 s else s.reg q := by
  rw [State.trapEntry_reg, linkedR7]
  by_cases hq : q = 7#3
  · subst hq; simp
  · simp [hq]

/-- The state that a TRAP to an external service leaves: its reply taken after the link write, and the run state by
the reply's outcome. -/
def State.afterExternal (s : State) (ws : List RegIdx) (wc : Bool) (r : ServiceReply) : State :=
  { s.trapEntry.takeReply ws wc r with run := if r.outcome = .halt then .halted else s.run }

/-- A TRAP to an external service whose characters all come completes where its relation resumes or halts. -/
theorem exec_trap_external {v : Word} {s : State} {ws : List RegIdx} {wc : Bool}
    (hservice : s.service v = .external ws wc) (hchars : ∀ k < (s.trapReply v).reads, s.charAhead k ≠ none)
    (houtcome : (s.trapReply v).outcome ≠ .never) :
    exec (.trap v) s = .next (s.afterExternal ws wc (s.trapReply v)) := by
  have hcome : s.charsCome (s.trapReply v).reads = true := (s.charsCome_iff _).2 hchars
  have hrun : s.run = (s.trapEntry.takeReply ws wc (s.trapReply v)).run := by simp
  rw [exec_trap, hservice, runService, serviceExternal, ← State.trapReply, State.trapEntry_charsCome, if_pos hcome,
    State.afterExternal, hrun]
  cases ho : (s.trapReply v).outcome with
  | resume => rfl
  | halt => rfl
  | never => exact absurd ho houtcome

section
variable (s : State) (ws : List RegIdx) (wc : Bool) (r : ServiceReply)

theorem State.afterExternal_reg (q : RegIdx) : (s.afterExternal ws wc r).reg q =
    if q ∈ ws then r.regs[q.toNat]'q.isLt else if q = 7#3 then linkedR7 s else s.reg q := by
  rw [← State.trapEntry_reg_linkedR7, ← State.takeReply_reg s.trapEntry ws wc r]
  rfl

theorem State.afterExternal_peek (a : Word) : (s.afterExternal ws wc r).peek a = s.peek a := by
  rw [← State.trapEntry_peek s, ← State.takeReply_peek s.trapEntry ws wc r]
  rfl

end

/-! ### Any `TRAP_SERVICE` relation (R7) -/

theorem execUnder_trap (service : TrapService) (v : Word) (s : State) :
    execUnder service (.trap v) s = (service v s.trapEntry).complete := rfl

theorem execUnder_of_ne_trap (service : TrapService) (i : Instr) (s : State) (hi : ∀ v, i ≠ .trap v) :
    execUnder service i s = exec i s := by
  cases i with
  | trap v => exact absurd rfl (hi v)
  | _ => rfl

theorem stepUnder_table : stepUnder tableService = step := by
  have : execUnder tableService = exec := funext fun i => funext fun s => execUnder_table i s
  rw [stepUnder, this, step]

/-- Settles O60: an external service by the state `afterExternal`, any other relation by `execUnder` on TRAP. -/
theorem trapUnderAnyService : Obligations.TrapUnderAnyService := by
  unfold Obligations.TrapUnderAnyService
  refine ⟨?external, ?relation, execUnder_of_ne_trap, fun s => congrFun stepUnder_table s⟩
  case external =>
    intro v s ws wc hservice hchars houtcome
    refine ⟨_, exec_trap_external hservice hchars houtcome, State.afterExternal_reg s ws wc _, ?_, ?_,
      fun a _ => State.afterExternal_peek s ws wc _ a, rfl, ?_⟩
    all_goals simp [State.afterExternal, Channel.askedTimes_eq, Channel.asked]
  case relation =>
    intro service v s
    refine ⟨fun t h => ?_, fun t h => ?_, fun why h => ?_⟩
    all_goals rw [execUnder_trap, h]; rfl

end Sys2Proof.Machine
end

section
/-! PROOFS of the family 10_state: reset and SetCC (R21, R28), the canonical memory (R27, R30), what each instruction
may change of the registers, PC, COND and the run state (R16 to R23, R26), and the machine's invariant (R19). -/

namespace Sys2Proof.Machine

/-! ### Reset (R28, R29) -/

/-- Settles O9, by the fields of the reset state. -/
theorem resetLeaves : Obligations.ResetLeaves := by
  unfold Obligations.ResetLeaves
  exact ⟨fun cfg => ⟨State.resetWith_reg cfg, State.resetWith_peek cfg, rfl, rfl, rfl⟩, rfl, rfl⟩

theorem State.resetWith_inv {cfg : Config} (h : cfg.condReset &&& 0xFFF8#16 = 0x0000#16) : (State.resetWith cfg).Inv :=
  ⟨State.wf_resetWith cfg, h⟩

/-- Settles O58: the default COND_RESET has no reserved bit. -/
theorem resetMeetsInvariant : Obligations.ResetMeetsInvariant := by
  unfold Obligations.ResetMeetsInvariant
  exact ⟨State.resetWith_inv (cfg := defaultConfig) (by decide), fun _ => State.resetWith_inv⟩

/-! ### SetCC (R21) -/

/-- Settles O17: bit 15 of a word is its most significant one. -/
theorem setCCWritesOneFlag : Obligations.SetCCWritesOneFlag := by
  unfold Obligations.SetCCWritesOneFlag
  intro s r
  have hmsb : bit (s.reg r) 15 = (s.reg r).msb := by simp [bit, BitVec.msb_eq_getLsbD_last]
  exact ⟨by rw [State.setCC_cond, condOf, hmsb, flNeg, flZro, flPos], rfl⟩

/-! ### The canonical memory (R27, R30) -/

theorem Memory.wfFrom_cons {lo k : Nat} {x : Word} {rest : Memory} :
    Memory.wfFrom lo ((k, x) :: rest) = true ↔
      lo ≤ k ∧ k < 65536 ∧ x ≠ Memory.unwritten ∧ Memory.wfFrom (k + 1) rest = true := by
  simp [Memory.wfFrom, and_assoc]

/-- A canonical list lists nothing below its first address. -/
theorem Memory.read_below {m : Memory} {lo a : Nat} (h : Memory.wfFrom lo m = true) (ha : a < lo) :
    Memory.read m a = Memory.unwritten := by
  induction m generalizing lo with
  | nil => rfl
  | cons c rest ih =>
    obtain ⟨k, x⟩ := c
    obtain ⟨hlo, _, _, hrest⟩ := Memory.wfFrom_cons.1 h
    rw [Memory.read, if_neg (by omega), ih hrest (by omega)]

/-- The first address of a canonical list is no later than that of a list that reads the same. -/
theorem Memory.head_le_of_read_eq {lo hi k k' : Nat} {x x' : Word} {rest rest' : Memory}
    (h : Memory.wfFrom lo ((k, x) :: rest) = true) (h' : Memory.wfFrom hi ((k', x') :: rest') = true)
    (hread : ∀ a < 65536, Memory.read ((k, x) :: rest) a = Memory.read ((k', x') :: rest') a) : k' ≤ k := by
  obtain ⟨_, hk, hx, _⟩ := Memory.wfFrom_cons.1 h
  obtain ⟨_, hk', hx', hrest'⟩ := Memory.wfFrom_cons.1 h'
  by_contra hlt
  have hhead : Memory.wfFrom k' ((k', x') :: rest') = true := Memory.wfFrom_cons.2 ⟨le_rfl, hk', hx', hrest'⟩
  have hxk := hread k hk
  rw [Memory.read_below hhead (by omega), Memory.read, if_pos rfl] at hxk
  exact hx hxk

theorem Memory.eq_of_read_eq {m m' : Memory} {lo : Nat} (h : Memory.wfFrom lo m = true)
    (h' : Memory.wfFrom lo m' = true) (hread : ∀ a < 65536, Memory.read m a = Memory.read m' a) : m = m' := by
  induction m generalizing lo m' with
  | nil =>
    cases m' with
    | nil => rfl
    | cons c' rest' =>
      obtain ⟨k', x'⟩ := c'
      obtain ⟨_, hk', hx', _⟩ := Memory.wfFrom_cons.1 h'
      have hxk := hread k' hk'
      rw [Memory.read, Memory.read, if_pos rfl] at hxk
      exact absurd hxk.symm hx'
  | cons c rest ih =>
    obtain ⟨k, x⟩ := c
    obtain ⟨_, hk, hx, hrest⟩ := Memory.wfFrom_cons.1 h
    cases m' with
    | nil =>
      have hxk := hread k hk
      rw [Memory.read, Memory.read, if_pos rfl] at hxk
      exact absurd hxk hx
    | cons c' rest' =>
      obtain ⟨k', x'⟩ := c'
      obtain rfl : k = k' := le_antisymm (Memory.head_le_of_read_eq h' h (fun a ha => (hread a ha).symm))
        (Memory.head_le_of_read_eq h h' hread)
      obtain ⟨_, _, _, hrest'⟩ := Memory.wfFrom_cons.1 h'
      obtain rfl : x = x' := by simpa [Memory.read] using hread k hk
      have hread_rest : ∀ a < 65536, Memory.read rest a = Memory.read rest' a := by
        intro a ha
        by_cases hak : a = k
        · rw [Memory.read_below hrest (by omega), Memory.read_below hrest' (by omega)]
        · simpa [Memory.read, hak] using hread a ha
      rw [ih hrest hrest' hread_rest]

/-- Settles O16, by induction on the canonical lists from their first addresses on. -/
theorem equalReadsEqualMemory : Obligations.EqualReadsEqualMemory := by
  unfold Obligations.EqualReadsEqualMemory
  intro m m' h h' hread
  refine Memory.eq_of_read_eq h h' fun a ha => ?_
  simpa [Nat.mod_eq_of_lt ha] using hread (BitVec.ofNat 16 a)

/-! ### Linkage (R17) -/

/-- Settles O26: the JSR leaves its incremented PC in R7, and 0xC1C0 is `JMP R7`. -/
theorem retReturnsAfterJsr : Obligations.RetReturnsAfterJsr := by
  unfold Obligations.RetReturnsAfterJsr
  intro off s t u hjsr hr7
  rw [exec_jsr, Host.Outcome.next.injEq] at hjsr
  have hret : decode 0xC1C0#16 = .jmp 7#3 := by decide
  refine ⟨u.setPc (u.reg 7#3), by rw [hret, exec_jmp], ?_⟩
  rw [State.setPc_pc, hr7, ← hjsr]
  simp

/-! ### What an instruction can do -/

/-- `u` is `s` after reads of memory, which may poll (R35): only memory and the keyboard can differ, and memory keeps
its canonical form. -/
structure ReadsOnly (s u : State) : Prop where
  regs : u.regs = s.regs
  pc : u.pc = s.pc
  cond : u.cond = s.cond
  run : u.run = s.run
  wf : Memory.wf s.mem = true → Memory.wf u.mem = true

theorem ReadsOnly.refl (s : State) : ReadsOnly s s := ⟨rfl, rfl, rfl, rfl, id⟩

theorem ReadsOnly.memRead {s u : State} (h : ReadsOnly s u) (a : Word) : ReadsOnly s (u.memRead a).2 where
  regs := by rw [State.memRead_regs, h.regs]
  pc := by rw [State.memRead_pc, h.pc]
  cond := by rw [State.memRead_cond, h.cond]
  run := by rw [State.memRead_run, h.run]
  wf := fun hwf => State.wf_memRead a (h.wf hwf)

theorem ReadsOnly.reg {s u : State} (h : ReadsOnly s u) (r : RegIdx) : u.reg r = s.reg r := by
  simp only [State.reg, h.regs]

/-- What an instruction other than TRAP can do to the state in which it executes (R69 to R87, R91, R92). -/
inductive InstrEffect (s : State) : Instr → State → Prop
  /-- Reads, then a value in DR with its flag. -/
  | result {i : Instr} {dr : RegIdx} {u : State} (v : Word) (hdest : flagDest i = some dr)
      (hlist : mayWrite s i = [dr]) (hreads : ReadsOnly s u) : InstrEffect s i (u.writeResult dr v)
  /-- Reads, then a store. -/
  | store {i : Instr} {u : State} (a v : Word) (hdest : flagDest i = none) (hreads : ReadsOnly s u) :
      InstrEffect s i (u.memWrite a v)
  | branch (nzp : BitVec 3) (off : Word) (htaken : s.branchTaken nzp = true) :
      InstrEffect s (.br nzp off) (s.setPc (s.pc + off))
  | jump (b : RegIdx) : InstrEffect s (.jmp b) (s.setPc (s.reg b))
  /-- JSR and JSRR. -/
  | call {i : Instr} (target : Word) (hcall : (∃ off, i = .jsr off) ∨ ∃ b, i = .jsrr b) :
      InstrEffect s i (s.linkR7.setPc target)
  /-- A BR that falls through, or a reserved opcode under `inert`. -/
  | idle {i : Instr} (hdest : flagDest i = none) : InstrEffect s i s
  /-- A reserved opcode under `fault`. -/
  | illegal {i : Instr} (w : Word) (hdest : flagDest i = none) : InstrEffect s i (s.raiseIllegalOpcode w)

theorem InstrEffect.of_branch (s : State) (nzp : BitVec 3) (off : Word) :
    InstrEffect s (.br nzp off) (if s.branchTaken nzp then s.setPc (s.pc + off) else s) := by
  split
  · exact .branch nzp off (by assumption)
  · exact .idle rfl

theorem InstrEffect.of_reservedOpcode (s : State) {i : Instr} (w : Word) (hdest : flagDest i = none) :
    InstrEffect s i (s.reservedOpcode w) := by
  obtain ⟨_, e⟩ | ⟨_, e⟩ := s.reservedOpcode_cases w
  · rw [e]; exact .idle hdest
  · rw [e]; exact .illegal w hdest

/-- Every instruction but TRAP completes, with one of those effects. -/
theorem exec_effect (i : Instr) (s : State) (hi : ∀ v, i ≠ .trap v) : ∃ t, exec i s = .next t ∧ InstrEffect s i t := by
  have here : ReadsOnly s s := .refl s
  cases i with
  | addReg dr sr1 sr2 => exact ⟨_, exec_addReg dr sr1 sr2 s, .result _ rfl rfl here⟩
  | addImm dr sr1 imm => exact ⟨_, exec_addImm dr sr1 imm s, .result _ rfl rfl here⟩
  | andReg dr sr1 sr2 => exact ⟨_, exec_andReg dr sr1 sr2 s, .result _ rfl rfl here⟩
  | andImm dr sr1 imm => exact ⟨_, exec_andImm dr sr1 imm s, .result _ rfl rfl here⟩
  | notReg dr sr => exact ⟨_, exec_notReg dr sr s, .result _ rfl rfl here⟩
  | br nzp off => exact ⟨_, exec_br nzp off s, .of_branch s nzp off⟩
  | jmp b => exact ⟨_, exec_jmp b s, .jump b⟩
  | jsr off => exact ⟨_, exec_jsr off s, .call _ (.inl ⟨off, rfl⟩)⟩
  | jsrr b => exact ⟨_, exec_jsrr b s, .call _ (.inr ⟨b, rfl⟩)⟩
  | ld dr off => exact ⟨_, exec_ld dr off s, .result _ rfl rfl (here.memRead _)⟩
  | st sr off => exact ⟨_, exec_st sr off s, .store _ _ rfl here⟩
  | ldr dr b off => exact ⟨_, exec_ldr dr b off s, .result _ rfl rfl (here.memRead _)⟩
  | str sr b off => exact ⟨_, exec_str sr b off s, .store _ _ rfl here⟩
  | rti x => exact ⟨_, exec_rti x s, .of_reservedOpcode s _ rfl⟩
  | ldi dr off => exact ⟨_, exec_ldi dr off s, .result _ rfl rfl ((here.memRead _).memRead _)⟩
  | sti sr off => exact ⟨_, exec_sti sr off s, .store _ _ rfl (here.memRead _)⟩
  | res x => exact ⟨_, exec_res x s, .of_reservedOpcode s _ rfl⟩
  | lea dr off => exact ⟨_, exec_lea dr off s, .result _ rfl rfl here⟩
  | trap v => exact absurd rfl (hi v)

/-- Everything an instruction can do under any `TRAP_SERVICE` when it answers a next state. -/
theorem execUnder_cases {service : TrapService} {i : Instr} {s t : State} (h : execUnder service i s = .next t) :
    (∃ v, i = .trap v) ∨ InstrEffect s i t := by
  by_cases hi : ∃ v, i = .trap v
  · exact .inl hi
  · have hne : ∀ v, i ≠ .trap v := fun v e => hi ⟨v, e⟩
    obtain ⟨u, hu, heffect⟩ := exec_effect i s hne
    rw [execUnder_of_ne_trap service i s hne, hu, Host.Outcome.next.injEq] at h
    exact .inr (h ▸ heffect)

theorem exec_cases {i : Instr} {s t : State} (h : exec i s = .next t) : (∃ v, i = .trap v) ∨ InstrEffect s i t :=
  execUnder_cases (service := tableService) (by rw [execUnder_table, h])

/-! ### COND (R20, R22) -/

/-- COND is as before where the instruction has no DR to flag, and else DR's flag. -/
theorem InstrEffect.cond_cases {s t : State} {i : Instr} (h : InstrEffect s i t) :
    (flagDest i = none ∧ t.cond = s.cond) ∨ ∃ dr, flagDest i = some dr ∧ t.cond = flagFor (t.reg dr) := by
  cases h with
  | result v hdest _ _ => exact .inr ⟨_, hdest, by simp [condOf_eq_flagFor]⟩
  | store a v hdest hreads => exact .inl ⟨hdest, hreads.cond⟩
  | branch nzp off _ => exact .inl ⟨rfl, rfl⟩
  | jump b => exact .inl ⟨rfl, rfl⟩
  | call target hcall => obtain ⟨off, rfl⟩ | ⟨b, rfl⟩ := hcall <;> exact .inl ⟨rfl, rfl⟩
  | idle hdest => exact .inl ⟨hdest, rfl⟩
  | illegal w hdest => exact .inl ⟨hdest, rfl⟩

/-- Settles O42, by what an instruction other than TRAP does to COND. -/
theorem condChangesOnlyByFlagSetters : Obligations.CondChangesOnlyByFlagSetters := by
  unfold Obligations.CondChangesOnlyByFlagSetters
  intro i s t h
  obtain ⟨v, rfl⟩ | heffect := exec_cases h
  · exact ⟨fun dr hdest => (nomatch hdest), fun _ _ => ⟨v, rfl⟩⟩
  · obtain ⟨hnone, hsame⟩ | ⟨dr, hsome, hflag⟩ := heffect.cond_cases
    · exact ⟨fun dr hdest => by simp [hnone] at hdest, fun _ hne => absurd hsame hne⟩
    · refine ⟨fun dr' hdest => ?_, fun hnone => by simp [hsome] at hnone⟩
      obtain rfl : dr = dr' := Option.some.inj (hsome.symm.trans hdest)
      exact hflag

/-- Settles O43: the flag of DR's value is one of three. -/
theorem exactlyOneFlagAfterSetting : Obligations.ExactlyOneFlagAfterSetting := by
  unfold Obligations.ExactlyOneFlagAfterSetting
  intro i s t hsetter h
  obtain ⟨dr, hdest⟩ := Option.ne_none_iff_exists'.1 hsetter
  have hflag : t.cond = flagFor (t.reg dr) := (condChangesOnlyByFlagSetters i s t h).1 dr hdest
  rw [hflag, ← condOf_eq_flagFor]
  exact condOf_cases (t.reg dr)

/-! ### General registers (R16) -/

theorem InstrEffect.regsSame {s t : State} {i : Instr} (h : InstrEffect s i t) : RegsSame s t (mayWrite s i) := by
  intro r hr
  cases h with
  | result v _ hlist hreads =>
    rw [hlist, List.mem_singleton] at hr
    rw [State.writeResult_reg, if_neg hr, hreads.reg]
  | store a v _ hreads => exact hreads.reg r
  | branch nzp off _ => rfl
  | jump b => rfl
  | call target hcall =>
    have hr7 : r ≠ 7#3 := by obtain ⟨off, rfl⟩ | ⟨b, rfl⟩ := hcall <;> exact fun e => hr (List.mem_singleton.2 e)
    rw [State.setPc_reg, State.linkR7_reg, if_neg hr7]
  | idle _ => rfl
  | illegal w _ => rfl

/-- The link write leaves every register as it was that TRAP's list does not hold (R88). -/
theorem State.trapEntry_reg_of_not_mem {s : State} {v : Word} {r : RegIdx} (h : r ∉ mayWrite s (.trap v)) :
    s.trapEntry.reg r = s.reg r := by
  rw [State.trapEntry_reg, if_neg]
  rintro ⟨hlink, rfl⟩
  simp [mayWrite, hlink] at h

theorem exec_trap_regsSame {v : Word} {s t : State} (h : exec (.trap v) s = .next t) :
    RegsSame s t (mayWrite s (.trap v)) := by
  intro r hr
  have hentry : s.trapEntry.reg r = s.reg r := State.trapEntry_reg_of_not_mem hr
  have hinput : s.service v = .getc ∨ s.service v = .inp → r ≠ 0#3 := by
    rintro (hservice | hservice) rfl <;> simp [mayWrite, hservice] at hr
  have hrow : ∀ ws wc, s.service v = .external ws wc → r ∉ ws := by
    intro ws wc hservice hmem
    simp [mayWrite, hservice, hmem] at hr
  obtain ⟨k, hservice, _, rfl⟩ | ⟨k, hservice, _, rfl⟩ | ⟨es, _, rfl⟩ | ⟨_, rfl⟩ | ⟨_, rfl⟩ |
    ⟨ws, wc, hservice, _, ⟨_, rfl⟩ | ⟨_, rfl⟩⟩ := exec_trap_cases h
  · simpa [hinput (.inl hservice)] using hentry
  · simpa [hinput (.inr hservice)] using hentry
  · exact hentry
  · exact hentry
  · exact hentry
  · simpa [hrow ws wc hservice] using hentry
  · simpa [hrow ws wc hservice] using hentry

/-- Settles O45, by the effect of the instruction or what a TRAP can do. -/
theorem registersWrittenAsListed : Obligations.RegistersWrittenAsListed := by
  unfold Obligations.RegistersWrittenAsListed
  intro i s t h
  obtain ⟨v, rfl⟩ | heffect := exec_cases h
  · exact exec_trap_regsSame h
  · exact heffect.regsSame

/-! ### PC (R18) -/

theorem exec_trap_pc {v : Word} {s t : State} (h : exec (.trap v) s = .next t) : t.pc = s.pc := by
  obtain ⟨k, _, _, rfl⟩ | ⟨k, _, _, rfl⟩ | ⟨es, _, rfl⟩ | ⟨_, rfl⟩ | ⟨_, rfl⟩ |
    ⟨ws, wc, _, _, ⟨_, rfl⟩ | ⟨_, rfl⟩⟩ := exec_trap_cases h
  all_goals simp

theorem State.branchTaken_iff (s : State) (nzp : BitVec 3) :
    s.branchTaken nzp = true ↔ nzp.setWidth 16 &&& s.cond ≠ 0x0000#16 := by
  rw [State.branchTaken, zext, bne_iff_ne]

/-- Settles O46, by the effect of the instruction: the four control transfers are those that set PC. -/
theorem pcWrittenByControlOnly : Obligations.PcWrittenByControlOnly := by
  unfold Obligations.PcWrittenByControlOnly
  intro i s t h hpc
  obtain ⟨v, rfl⟩ | heffect := exec_cases h
  · exact absurd (exec_trap_pc h) hpc
  · cases heffect with
    | result v _ _ hreads => exact absurd hreads.pc hpc
    | store a v _ hreads => exact absurd hreads.pc hpc
    | branch nzp off htaken => exact .inl ⟨nzp, off, rfl, (s.branchTaken_iff nzp).1 htaken⟩
    | jump b => exact .inr (.inl ⟨b, rfl⟩)
    | call target hcall => exact .inr (.inr hcall)
    | idle _ => exact absurd rfl hpc
    | illegal w _ => exact absurd rfl hpc

/-! ### The run state (R26) -/

/-- No instruction but TRAP halts the engine. -/
theorem InstrEffect.run_cases {s t : State} {i : Instr} (h : InstrEffect s i t) : t.run = s.run ∨ ∃ p w, t.run = .faulted p w := by
  cases h with
  | result v _ _ hreads => exact .inl hreads.run
  | store a v _ hreads => exact .inl hreads.run
  | branch nzp off _ => exact .inl rfl
  | jump b => exact .inl rfl
  | call target _ => exact .inl rfl
  | idle _ => exact .inl rfl
  | illegal w _ => exact .inr ⟨_, _, rfl⟩

theorem exec_trap_halted {v : Word} {s t : State} (hrun : s.run = .running) (h : exec (.trap v) s = .next t)
    (ht : t.run = .halted) :
    s.service v = .halt ∨ ((∃ ws wc, s.service v = .external ws wc) ∧ (s.trapReply v).outcome = .halt) := by
  obtain ⟨k, _, _, rfl⟩ | ⟨k, _, _, rfl⟩ | ⟨es, _, rfl⟩ | ⟨_, rfl⟩ | ⟨hservice, _⟩ |
    ⟨ws, wc, hservice, _, ⟨_, rfl⟩ | ⟨hhalt, _⟩⟩ := exec_trap_cases h
  · simp [hrun] at ht
  · simp [hrun] at ht
  · simp [hrun] at ht
  · simp [hrun] at ht
  · exact .inl hservice
  · simp [hrun] at ht
  · exact .inr ⟨⟨ws, wc, hservice⟩, hhalt⟩

theorem exec_halted {i : Instr} {s t : State} (hrun : s.run = .running) (h : exec i s = .next t) (ht : t.run = .halted) :
    ∃ v, i = .trap v ∧
      (s.service v = .halt ∨ ((∃ ws wc, s.service v = .external ws wc) ∧ (s.trapReply v).outcome = .halt)) := by
  obtain ⟨v, rfl⟩ | heffect := exec_cases h
  · exact ⟨v, rfl, exec_trap_halted hrun h ht⟩
  · obtain hsame | ⟨p, w, hfault⟩ := heffect.run_cases
    · simp [hsame, hrun] at ht
    · simp [hfault] at ht

/-- The word a read gives does not depend on the host. -/
theorem State.passBoundary_memRead_word (s : State) (a : Word) : (s.passBoundary.memRead a).1 = (s.memRead a).1 := by
  obtain ⟨ha, e⟩ | ⟨ha, k, hk, e⟩ | ⟨ha, hk, e⟩ := s.memRead_cases a
  · rw [e]; simp [State.memRead, ha]
  · rw [e]; simp [State.memRead, State.kbsrPoll, ha, hk]
  · rw [e]; simp [State.memRead, State.kbsrPoll, ha, hk]

/-- Settles O55, by what a step can do: nothing, a host stop, or the instruction it fetches. -/
theorem haltedOnlyByServiceOrHost : Obligations.HaltedOnlyByServiceOrHost := by
  unfold Obligations.HaltedOnlyByServiceOrHost
  intro s t hrun hstep ht
  obtain ⟨hstopped, _⟩ | ⟨_, hstops, _⟩ | ⟨_, _, hexec⟩ := step_cases hstep
  · exact absurd hrun hstopped
  · exact .inl hstops
  · obtain ⟨v, hword, hservice⟩ := exec_halted (by simpa using hrun) hexec ht
    have hsame : s.passBoundary.fetch.2.service v = s.service v := by simp [State.service]
    rw [State.fetch_word, State.passBoundary_pc, State.passBoundary_memRead_word] at hword
    rw [hsame] at hservice
    exact .inr ⟨v, hword, hservice⟩

/-! ### Only BR reads COND (R23) -/

/-- The outcome with COND replaced in the state it answers, if any. -/
def ServiceOutcome.withCond (c : Word) : ServiceOutcome → ServiceOutcome
  | .resume s => .resume (s.setCond c)
  | .halt s => .halt (s.setCond c)
  | .never why => .never why

/-- The same for the outcome of an instruction. -/
def outcomeWithCond (c : Word) : Host.Outcome State Fault Refusal → Host.Outcome State Fault Refusal
  | .next s => .next (s.setCond c)
  | .fault r => .fault r
  | .refused r => .refused r

theorem ServiceOutcome.complete_withCond (o : ServiceOutcome) (c : Word) :
    (o.withCond c).complete = outcomeWithCond c o.complete := by cases o <;> rfl

/-- Whether a service writes COND when it completes (R90). -/
def serviceWritesCond : Service → Bool
  | .getc => true
  | .inp => true
  | .external _ wc => wc
  | .out => false
  | .puts => false
  | .putsp => false
  | .halt => false
  | .unknown => false

/-- Whether an instruction writes COND when it completes (R22, R90). -/
def writesCond (s : State) : Instr → Bool
  | .trap v => serviceWritesCond (s.service v)
  | i => (flagDest i).isSome

theorem State.loadInto_setCond (s : State) (c : Word) (dr : RegIdx) (a : Word) :
    (s.setCond c).loadInto dr a = s.loadInto dr a := by
  rw [State.loadInto, State.setCond, State.memRead_setCond]; rfl

theorem State.trapEntry_setCond (s : State) (c : Word) : (s.setCond c).trapEntry = s.trapEntry.setCond c := by
  unfold State.trapEntry
  by_cases hlink : s.cfg.trapLinkR7 = true
  · rw [if_pos hlink, State.setCond_cfg, if_pos hlink]; rfl
  · rw [if_neg hlink, State.setCond_cfg, if_neg hlink]

theorem State.reservedOpcode_setCond (s : State) (c w : Word) :
    (s.setCond c).reservedOpcode w = (s.reservedOpcode w).setCond c := by
  unfold State.reservedOpcode
  rw [State.setCond_cfg]
  cases s.cfg.illegalPolicy <;> rfl

theorem State.setRegs_setCond (s : State) (c : Word) (vs : Vector Word 8) (l : List RegIdx) :
    (s.setCond c).setRegs vs l = (s.setRegs vs l).setCond c := by
  induction l generalizing s with
  | nil => rfl
  | cons r l ih => exact ih (s.setReg r _)

theorem stringAt_setCond (s : State) (c a : Word) (fuel : Nat) : stringAt (s.setCond c) a fuel = stringAt s a fuel := by
  induction fuel generalizing a with
  | zero => rfl
  | succ fuel ih => simp only [stringAt, State.setCond_peek, ih]

theorem State.string_setCond (s : State) (c : Word) : (s.setCond c).string = s.string :=
  stringAt_setCond s c (s.reg 0#3) 65536

theorem State.takeReply_setCond (s : State) (c : Word) (ws : List RegIdx) (wc : Bool) (r : ServiceReply) :
    (s.setCond c).takeReply ws wc r = if wc = true then s.takeReply ws wc r else (s.takeReply ws wc r).setCond c := by
  have hregs := State.setRegs_setCond ((s.askService.askConsoleTimes r.reads).print r.output) c r.regs ws
  have hbefore : (((s.setCond c).askService.askConsoleTimes r.reads).print r.output) =
    ((s.askService.askConsoleTimes r.reads).print r.output).setCond c := rfl
  cases wc <;> rw [State.takeReply, hbefore, hregs] <;> rfl

theorem runService_setCond_of_writes {sv : Service} {v : Word} {s : State} {c : Word}
    (hreply : ∀ ws wc, sv = .external ws wc → (s.setCond c).serviceReply v = s.serviceReply v)
    (hwrites : serviceWritesCond sv = true) : runService sv v (s.setCond c) = runService sv v s := by
  cases sv with
  | getc =>
    simp only [runService, serviceGetc, State.setCond_charAnswer]
    rfl
  | inp =>
    simp only [runService, serviceIn, State.setCond_charAnswer]
    rfl
  | external ws wc =>
    obtain rfl : wc = true := hwrites
    simp only [runService, serviceExternal, hreply ws true rfl, State.setCond_charsCome, State.takeReply_setCond, if_true]
  | out | puts | putsp | halt | unknown => exact absurd hwrites (by decide)

theorem runService_setCond_of_not_writes {sv : Service} {v : Word} {s : State} {c : Word}
    (hreply : ∀ ws wc, sv = .external ws wc → (s.setCond c).serviceReply v = s.serviceReply v)
    (hwrites : serviceWritesCond sv = false) :
    runService sv v (s.setCond c) = (runService sv v s).withCond c := by
  cases sv with
  | getc | inp => exact absurd hwrites (by decide)
  | out | halt | unknown => rfl
  | puts | putsp =>
    simp only [runService, serviceString, State.string_setCond]
    split <;> rfl
  | external ws wc =>
    obtain rfl : wc = false := hwrites
    simp only [runService, serviceExternal, hreply ws false rfl, State.setCond_charsCome, State.takeReply_setCond,
      Bool.false_eq_true, if_false]
    split
    · split <;> rfl
    · rfl

/-- What R23 asks of an external service: it replies the same with COND replaced. -/
def SameReply (i : Instr) (s : State) (c : Word) : Prop :=
  ∀ v ws wc, i = .trap v → s.service v = .external ws wc → (s.setCond c).trapReply v = s.trapReply v

section
variable {i : Instr} {s : State} {c : Word}

theorem SameReply.serviceReply {v : Word} (h : SameReply (.trap v) s c) (ws : List RegIdx) (wc : Bool)
    (hservice : s.service v = .external ws wc) : (s.trapEntry.setCond c).serviceReply v = s.trapEntry.serviceReply v := by
  rw [← State.trapEntry_setCond]
  exact h v ws wc rfl hservice

theorem exec_trap_setCond (v : Word) (s : State) (c : Word) :
    exec (.trap v) (s.setCond c) = (runService (s.service v) v (s.trapEntry.setCond c)).complete := by
  rw [exec_trap, State.trapEntry_setCond]; rfl

/-- Where an instruction writes COND, the value before it is lost. -/
theorem exec_setCond_of_writes (hreply : SameReply i s c) (hwrites : writesCond s i = true) :
    exec i (s.setCond c) = exec i s := by
  cases i with
  | addReg | addImm | andReg | andImm | notReg | lea => rfl
  | ld dr off => rw [exec_ld, exec_ld, State.loadInto_setCond]; rfl
  | ldr dr b off => rw [exec_ldr, exec_ldr, State.loadInto_setCond]; rfl
  | ldi dr off =>
    have hpointer := State.memRead_setCond s (s.pc + off) c
    have hdata := State.loadInto_setCond (s.memRead (s.pc + off)).2 c dr (s.memRead (s.pc + off)).1
    rw [exec_ldi, exec_ldi, State.setCond_pc, State.setCond, hpointer]
    exact congrArg Host.Outcome.next hdata
  | trap v => rw [exec_trap_setCond, exec_trap, runService_setCond_of_writes hreply.serviceReply hwrites]
  | br | jmp | jsr | jsrr | st | sti | str | rti | res => exact absurd hwrites (by simp [writesCond, flagDest])

/-- Where it does not, and is no BR, the value before it stays and nothing else depends on it. -/
theorem exec_setCond_of_not_writes (hbr : ∀ nzp off, i ≠ .br nzp off) (hreply : SameReply i s c)
    (hwrites : writesCond s i = false) : exec i (s.setCond c) = outcomeWithCond c (exec i s) := by
  cases i with
  | br nzp off => exact absurd rfl (hbr nzp off)
  | jmp | jsr | jsrr | st | str => rfl
  | sti sr off => rw [exec_sti, exec_sti, State.setCond_pc, State.setCond, State.memRead_setCond]; rfl
  | rti x => rw [exec_rti, exec_rti, State.reservedOpcode_setCond]; rfl
  | res x => rw [exec_res, exec_res, State.reservedOpcode_setCond]; rfl
  | trap v =>
    rw [exec_trap_setCond, exec_trap, runService_setCond_of_not_writes hreply.serviceReply hwrites,
      ServiceOutcome.complete_withCond]
  | addReg | addImm | andReg | andImm | notReg | ld | ldi | ldr | lea =>
    exact absurd hwrites (by simp [writesCond, flagDest])

/-- An instruction that does not write COND, and is no BR, leaves it as it was. -/
theorem exec_cond_of_not_writes {t : State} (hbr : ∀ nzp off, i ≠ .br nzp off) (hwrites : writesCond s i = false)
    (h : exec i s = .next t) : t.cond = s.cond := by
  have hself := exec_setCond_of_not_writes (c := s.cond) hbr (fun _ _ _ _ _ => rfl) hwrites
  rw [show s.setCond s.cond = s from rfl, h] at hself
  have hfixed : t = t.setCond s.cond := Host.Outcome.next.inj hself
  rw [hfixed, State.setCond_cond]

end

/-- Settles O44, by whether the instruction writes COND. -/
theorem onlyBranchReadsCond : Obligations.OnlyBranchReadsCond := by
  unfold Obligations.OnlyBranchReadsCond
  intro i s t c hbr hreply h
  cases hwrites : writesCond s i with
  | true => exact ⟨t.cond, (exec_setCond_of_writes hreply hwrites).trans h, .inl rfl⟩
  | false =>
    refine ⟨c, ?_, .inr ⟨rfl, exec_cond_of_not_writes hbr hwrites h⟩⟩
    exact (exec_setCond_of_not_writes hbr hreply hwrites).trans (by rw [h]; rfl)

/-! ### The invariant (R19, R27) -/

theorem InstrEffect.keeps_inv {s t : State} {i : Instr} (h : InstrEffect s i t) (hinv : s.Inv) : t.Inv := by
  obtain ⟨hwf, hcond⟩ := hinv
  cases h with
  | result v _ _ hreads =>
    refine ⟨by simpa using hreads.wf hwf, ?_⟩
    rw [State.CondReserved, State.writeResult_cond]
    exact condOf_reserved v
  | store a v _ hreads =>
    refine ⟨State.wf_memWrite a v (hreads.wf hwf), ?_⟩
    rw [State.CondReserved, State.memWrite_cond, hreads.cond]
    exact hcond
  | branch nzp off _ => exact ⟨hwf, hcond⟩
  | jump b => exact ⟨hwf, hcond⟩
  | call target _ => exact ⟨hwf, hcond⟩
  | idle _ => exact ⟨hwf, hcond⟩
  | illegal w _ => exact ⟨hwf, hcond⟩

theorem ServiceOutcome.complete_eq_next {o : ServiceOutcome} {t : State} (h : o.complete = .next t) :
    o = .resume t ∨ ∃ u, o = .halt u ∧ t = u.halt := by
  cases o with
  | resume u => exact .inl (congrArg ServiceOutcome.resume (Host.Outcome.next.inj h))
  | halt u => exact .inr ⟨u, rfl, (Host.Outcome.next.inj h).symm⟩
  | never why => exact nomatch h

theorem execUnder_keeps_inv {service : TrapService} (hcontract : ServiceContract service) {i : Instr} {s t : State}
    (hinv : s.Inv) (h : execUnder service i s = .next t) : t.Inv := by
  obtain ⟨v, rfl⟩ | heffect := execUnder_cases h
  · have hentry : s.trapEntry.Inv := by simpa [State.Inv, State.CondReserved] using hinv
    obtain hresume | ⟨u, hhalt, rfl⟩ := ServiceOutcome.complete_eq_next h
    · obtain ⟨hmem, _, _, _, _, _, hcond⟩ := hcontract v _ _ (.inl hresume)
      exact ⟨hmem ▸ hentry.1, hcond hentry.2⟩
    · obtain ⟨hmem, _, _, _, _, _, hcond⟩ := hcontract v _ _ (.inr hhalt)
      exact ⟨hmem ▸ hentry.1, hcond hentry.2⟩
  · exact heffect.keeps_inv hinv

/-- Everything a step over a dispatch can do when it answers a next state. -/
theorem stepWith_cases {ex : Instr → State → Host.Outcome State Fault Refusal} {s t : State}
    (h : stepWith ex s = .next t) :
    t = s ∨ t = s.hostStop ∨ ex (decode s.passBoundary.fetch.1) s.passBoundary.fetch.2 = .next t := by
  unfold stepWith at h
  split at h
  · split at h
    · exact .inr (.inl (Host.Outcome.next.inj h).symm)
    · exact .inr (.inr h)
  · exact .inl (Host.Outcome.next.inj h).symm

theorem State.fetch_keeps_inv {s : State} (hinv : s.Inv) : s.passBoundary.fetch.2.Inv := by
  refine ⟨State.wf_memRead s.pc (s := s.passBoundary) hinv.1, ?_⟩
  simpa [State.CondReserved] using hinv.2

theorem stepUnder_keeps_inv {service : TrapService} (hcontract : ServiceContract service) {s t : State}
    (hinv : s.Inv) (h : stepUnder service s = .next t) : t.Inv := by
  obtain rfl | rfl | hexec := stepWith_cases h
  · exact hinv
  · exact hinv
  · exact execUnder_keeps_inv hcontract (State.fetch_keeps_inv hinv) hexec

/-! The machine's own services keep R90's contract. -/

/-- What R90's contract asks of the state `t` that a service returns from `s`. -/
def KeepsContract (s t : State) : Prop :=
  t.mem = s.mem ∧ t.pc = s.pc ∧ t.run = s.run ∧ t.cfg = s.cfg ∧ t.keyboard = s.keyboard ∧ t.host = s.host ∧
    (s.CondReserved → t.CondReserved)

/-- The same of a service's outcome, which may have no state. -/
def ServiceOutcome.KeepsContract (s : State) : ServiceOutcome → Prop
  | .resume t => Machine.KeepsContract s t
  | .halt t => Machine.KeepsContract s t
  | .never _ => True

theorem serviceContract_of_outcomes {service : TrapService} (h : ∀ v s, (service v s).KeepsContract s) :
    ServiceContract service := by
  intro v s t ht
  have hkeeps := h v s
  obtain e | e := ht
  · rw [e] at hkeeps; exact hkeeps
  · rw [e] at hkeeps; exact hkeeps

theorem KeepsContract.refl (s : State) : KeepsContract s s := ⟨rfl, rfl, rfl, rfl, rfl, rfl, id⟩

theorem KeepsContract.print {s u : State} (h : KeepsContract s u) (es : List ConsoleEvent) :
    KeepsContract s (u.print es) := h

theorem KeepsContract.askConsole {s u : State} (h : KeepsContract s u) : KeepsContract s u.askConsole := h

theorem KeepsContract.writeResult {s u : State} (h : KeepsContract s u) (r : RegIdx) (k : Word) :
    KeepsContract s (u.writeResult r k) := by
  obtain ⟨hmem, hpc, hrun, hcfg, hkeyboard, hhost, _⟩ := h
  refine ⟨hmem, hpc, hrun, hcfg, hkeyboard, hhost, fun _ => ?_⟩
  rw [State.CondReserved, State.writeResult_cond]
  exact condOf_reserved k

/-- A reply's three flags reach no reserved bit of COND (R19). -/
theorem flags_reserved : ∀ flags : BitVec 3, flags.setWidth 16 &&& 0xFFF8#16 = 0x0000#16 := by decide

theorem KeepsContract.takeReply (s : State) (ws : List RegIdx) (wc : Bool) (r : ServiceReply) :
    KeepsContract s (s.takeReply ws wc r) := by
  refine ⟨by simp, by simp, by simp, by simp, by simp, by simp, fun hcond => ?_⟩
  rw [State.CondReserved, State.takeReply_cond]
  split
  · exact flags_reserved r.cond
  · exact hcond

theorem runService_keepsContract (sv : Service) (v : Word) (s : State) : (runService sv v s).KeepsContract s := by
  have here : KeepsContract s s := .refl s
  cases sv with
  | getc =>
    simp only [runService, serviceGetc]
    split
    · exact here.askConsole.writeResult _ _
    · trivial
  | inp =>
    simp only [runService, serviceIn]
    split
    · exact (here.askConsole.print _).writeResult _ _
    · trivial
  | out | halt => exact here.print _
  | puts | putsp =>
    simp only [runService, serviceString]
    split
    · exact here.print _
    · trivial
  | unknown => exact here
  | external ws wc =>
    simp only [runService, serviceExternal]
    split
    · split
      · exact .takeReply s ws wc _
      · exact .takeReply s ws wc _
      · trivial
    · trivial

theorem tableService_contract : ServiceContract tableService :=
  serviceContract_of_outcomes fun v s => runService_keepsContract (serviceAt s.cfg.trapService v) v s

/-- Settles O59: `step` is the step under the machine's own services, which keep the contract. -/
theorem stepKeepsInvariant : Obligations.StepKeepsInvariant := by
  unfold Obligations.StepKeepsInvariant
  refine ⟨fun s t hinv h => ?_, fun service hcontract s t => stepUnder_keeps_inv hcontract⟩
  rw [← stepUnder_table] at h
  exact stepUnder_keeps_inv tableService_contract hinv h

end Sys2Proof.Machine
end

section
/-! PROOFS of the family 20_memory: the access primitives (R35, R36), the keyboard poll (R38, R39), which instruction
changes a word of memory (R40), and a store that the next fetch sees (R46). -/

namespace Sys2Proof.Machine

/-! ### The access primitives (R35, R36) -/

/-- Settles O12, at the device registers as everywhere: a store has no address test. -/
theorem memWriteSetsOneWord : Obligations.MemWriteSetsOneWord := by
  unfold Obligations.MemWriteSetsOneWord
  intro s a v
  refine ⟨?_, fun b hb => ?_, rfl⟩
  · rw [State.memWrite_peek, if_pos rfl]
  · rw [State.memWrite_peek, if_neg hb]

theorem State.memRead_of_ne {s : State} {a : Word} (h : a ≠ s.cfg.kbsrAddr) : s.memRead a = (s.peek a, s) := if_neg h

/-- Settles O13: only `KBSR_ADDR` polls. -/
theorem memReadElsewhereIsPlain : Obligations.MemReadElsewhereIsPlain := by
  unfold Obligations.MemReadElsewhereIsPlain
  intro s a h
  exact State.memRead_of_ne h

/-! ### The keyboard poll (R38, R39) -/

theorem State.memRead_status_of_key {s : State} {k : Word} (h : s.keyAnswer = some k) :
    s.memRead s.cfg.kbsrAddr =
      (s.cfg.kbsrReady, (s.askKeyboard.poke s.cfg.kbdrAddr k).poke s.cfg.kbsrAddr s.cfg.kbsrReady) := by
  rw [State.memRead, if_pos rfl, State.kbsrPoll, h]

theorem State.memRead_status_of_no_key {s : State} (h : s.keyAnswer = none) :
    s.memRead s.cfg.kbsrAddr = (0x0000#16, s.askKeyboard.poke s.cfg.kbsrAddr 0x0000#16) := by
  rw [State.memRead, if_pos rfl, State.kbsrPoll, h]

/-- Settles O14, by the keyboard's answer. -/
theorem statusReadPolls : Obligations.StatusReadPolls := by
  unfold Obligations.StatusReadPolls
  intro s
  refine ⟨fun k hkey => ?_, fun hnone => ?_, ?_⟩
  · rw [State.memRead_status_of_key hkey]
    refine ⟨rfl, by simp, fun hne => by simp [hne], fun a ha => ?_⟩
    obtain ⟨hstatus, hdata⟩ : a ≠ s.cfg.kbsrAddr ∧ a ≠ s.cfg.kbdrAddr := by simpa using ha
    simp [hstatus, hdata]
  · rw [State.memRead_status_of_no_key hnone]
    refine ⟨rfl, by simp, fun a ha => ?_⟩
    have hstatus : a ≠ s.cfg.kbsrAddr := by simpa using ha
    simp [hstatus]
  · cases hanswer : s.keyAnswer with
    | some k => rw [State.memRead_status_of_key hanswer]; rfl
    | none => rw [State.memRead_status_of_no_key hanswer]; rfl

/-- Settles O15: the data register is a plain word, which the poll, and then a store, has written. -/
theorem dataRegisterHoldsKey : Obligations.DataRegisterHoldsKey := by
  unfold Obligations.DataRegisterHoldsKey
  intro s k v hne hkey polled
  have hplain : s.cfg.kbdrAddr ≠ polled.cfg.kbsrAddr := by rwa [State.memRead_cfg]
  obtain ⟨_, _, hdata, _⟩ := (statusReadPolls s).1 k hkey
  constructor
  · rw [State.memRead_of_ne hplain, hdata hne]
  · rw [State.memRead_of_ne (s := polled.memWrite s.cfg.kbdrAddr v) hplain, State.memWrite_peek, if_pos rfl]

/-! ### Which instruction changes memory (R36, R40) -/

/-- `u` has the memory and the keyboard of `s` after any number of polls: without one both are as before. -/
structure PollsOnly (s u : State) : Prop where
  cfg : u.cfg = s.cfg
  elsewhere : MemSame s u [s.cfg.kbsrAddr, s.cfg.kbdrAddr]
  polled : (u.mem = s.mem ∧ u.keyboard = s.keyboard) ∨ s.keyboard.draws < u.keyboard.draws

theorem PollsOnly.of_same {s u : State} (hcfg : u.cfg = s.cfg) (hmem : u.mem = s.mem)
    (hkeyboard : u.keyboard = s.keyboard) : PollsOnly s u where
  cfg := hcfg
  elsewhere := fun a _ => by simp only [State.peek, hmem]
  polled := .inl ⟨hmem, hkeyboard⟩

theorem PollsOnly.memRead {s u : State} (h : PollsOnly s u) (a : Word) : PollsOnly s (u.memRead a).2 := by
  obtain hplain | hdraws := u.memRead_draws a
  · rwa [hplain]
  · have hmore : s.keyboard.draws < (u.memRead a).2.keyboard.draws := by
      obtain ⟨_, hkeyboard⟩ | hpolled := h.polled
      · rw [hdraws, hkeyboard]; exact Nat.lt_succ_self _
      · omega
    refine ⟨by rw [State.memRead_cfg, h.cfg], fun b hb => ?_, .inr hmore⟩
    obtain ⟨hstatus, hdata⟩ : b ≠ u.cfg.kbsrAddr ∧ b ≠ u.cfg.kbdrAddr := by simpa [h.cfg] using hb
    rw [State.memRead_peek_of_ne u a b hstatus hdata, h.elsewhere b hb]

theorem PollsOnly.loadInto {s u : State} (h : PollsOnly s u) (dr : RegIdx) (a : Word) : PollsOnly s (u.loadInto dr a) :=
  have hread := h.memRead a
  ⟨hread.cfg, hread.elsewhere, hread.polled⟩

/-- A word that polls have changed is a device register's. -/
theorem PollsOnly.of_peek_ne {s u : State} (h : PollsOnly s u) {a : Word} (ha : u.peek a ≠ s.peek a) :
    s.keyboard.draws < u.keyboard.draws ∧ (a = s.cfg.kbsrAddr ∨ a = s.cfg.kbdrAddr) := by
  constructor
  · obtain ⟨hmem, _⟩ | hpolled := h.polled
    · exact absurd (by simp only [State.peek, hmem]) ha
    · exact hpolled
  · by_contra hne
    exact ha (h.elsewhere a (by simpa using hne))

/-- No trap service touches memory or the keyboard (R90). -/
theorem exec_trap_pollsOnly {v : Word} {s t : State} (h : exec (.trap v) s = .next t) : PollsOnly s t := by
  obtain ⟨k, _, _, rfl⟩ | ⟨k, _, _, rfl⟩ | ⟨es, _, rfl⟩ | ⟨_, rfl⟩ | ⟨_, rfl⟩ |
    ⟨ws, wc, _, _, ⟨_, rfl⟩ | ⟨_, rfl⟩⟩ := exec_trap_cases h
  all_goals exact .of_same (by simp) (by simp) (by simp)

theorem State.reservedOpcode_pollsOnly (s : State) (w : Word) : PollsOnly s (s.reservedOpcode w) := by
  obtain ⟨_, e⟩ | ⟨_, e⟩ := s.reservedOpcode_cases w
  · rw [e]; exact .of_same rfl rfl rfl
  · rw [e]; exact .of_same rfl rfl rfl

/-- The instruction is a store of this register (R85 to R87). -/
def StoresReg (i : Instr) (sr : RegIdx) : Prop := ∃ off, i = .st sr off ∨ i = .sti sr off ∨ ∃ b, i = .str sr b off

/-- What an instruction that completes can do to memory. -/
inductive MemEffect (s : State) (i : Instr) : State → Prop
  /-- Reads of memory at most, any of which may poll. -/
  | reads {u : State} (haddr : storeAddr s i = none) (hpolls : PollsOnly s u) : MemEffect s i u
  /-- The pointer read of STI, if any, then one word. -/
  | store {u : State} {a : Word} {sr : RegIdx} (haddr : storeAddr s i = some a) (hsource : StoresReg i sr)
      (hpolls : PollsOnly s u) : MemEffect s i (u.memWrite a (s.reg sr))

/-- An instruction has one outcome, so the effect of the state that its equation gives is its effect. -/
theorem MemEffect.of_exec {s t u : State} {i : Instr} (h : exec i s = .next t) (hexec : exec i s = .next u)
    (heffect : MemEffect s i u) : MemEffect s i t :=
  Host.Outcome.next.inj (hexec.symm.trans h) ▸ heffect

theorem exec_memEffect {i : Instr} {s t : State} (h : exec i s = .next t) : MemEffect s i t := by
  have here : PollsOnly s s := .of_same rfl rfl rfl
  cases i with
  | addReg | addImm | andReg | andImm | notReg | lea | jmp | jsr | jsrr =>
    exact .of_exec h rfl (.reads rfl (.of_same rfl rfl rfl))
  | br nzp off => exact .of_exec h (exec_br nzp off s) (.reads rfl (by split <;> exact .of_same rfl rfl rfl))
  | ld dr off => exact .of_exec h (exec_ld dr off s) (.reads rfl (here.loadInto _ _))
  | ldr dr b off => exact .of_exec h (exec_ldr dr b off s) (.reads rfl (here.loadInto _ _))
  | ldi dr off => exact .of_exec h (exec_ldi dr off s) (.reads rfl ((here.memRead _).loadInto _ _))
  | st sr off => exact .of_exec h (exec_st sr off s) (.store rfl ⟨off, .inl rfl⟩ here)
  | sti sr off => exact .of_exec h (exec_sti sr off s) (.store rfl ⟨off, .inr (.inl rfl)⟩ (here.memRead _))
  | str sr b off => exact .of_exec h (exec_str sr b off s) (.store rfl ⟨off, .inr (.inr ⟨b, rfl⟩)⟩ here)
  | rti x => exact .of_exec h (exec_rti x s) (.reads rfl (s.reservedOpcode_pollsOnly _))
  | res x => exact .of_exec h (exec_res x s) (.reads rfl (s.reservedOpcode_pollsOnly _))
  | trap v => exact .reads rfl (exec_trap_pollsOnly h)

/-- Settles O47, by the instruction's effect on memory: a store changes no word but its own after the pointer read. -/
theorem memoryChangesOnlyByStoreOrPoll : Obligations.MemoryChangesOnlyByStoreOrPoll := by
  unfold Obligations.MemoryChangesOnlyByStoreOrPoll
  intro i s t a h hchanged
  cases exec_memEffect h with
  | reads _ hpolls => exact .inr (hpolls.of_peek_ne hchanged)
  | @store u target sr haddr _ hpolls =>
    by_cases htarget : a = target
    · exact .inl (htarget ▸ haddr)
    · rw [State.memWrite_peek, if_neg htarget] at hchanged
      exact .inr (hpolls.of_peek_ne hchanged)

/-! ### The next fetch (R46) -/

/-- Away from `KBSR_ADDR` the fetch reads the stored word and polls nothing (R61). -/
theorem step_of_plain_fetch {s : State} (hrun : s.run = .running) (hgo : s.hostStops = false)
    (hpc : s.pc ≠ s.cfg.kbsrAddr) : step s = exec (decode (s.peek s.pc)) (s.passBoundary.setPc (s.pc + 1)) := by
  have hfetch : s.passBoundary.memRead s.passBoundary.pc = (s.peek s.pc, s.passBoundary) := State.memRead_of_ne hpc
  rw [step_running hrun hgo, State.fetch_word, State.fetch_state, hfetch, State.passBoundary_pc]

/-- Settles O51: the word stored at the next PC is the one that the fetch reads. -/
theorem storeSeenByNextFetch : Obligations.StoreSeenByNextFetch := by
  unfold Obligations.StoreSeenByNextFetch
  intro i s t a haddr h hpc hdevice hrun hgo
  cases exec_memEffect h with
  | reads hnone _ => simp [hnone] at haddr
  | @store u target sr htarget hsource _ =>
    obtain rfl : target = a := Option.some.inj (htarget.symm.trans haddr)
    refine ⟨sr, hsource, ?_⟩
    rw [step_of_plain_fetch hrun hgo (hpc ▸ hdevice), hpc, State.memWrite_peek, if_pos rfl]
    rfl

end Sys2Proof.Machine
end

section
/-! PROOFS of the family 30_encoding: the ranges of immediates (R53), the row of a word with its used and unused bits
(R49 to R56), and the round trips of decoder and encoder. -/

namespace Sys2Proof.Machine

/-! ### Immediates (R53) -/

theorem fitsSigned_iff_eq {n : Nat} {v : Word} : fitsSigned n v = true ↔ sext (lowBits n v) = v := beq_iff_eq

theorem fitsUnsigned_iff_eq {n : Nat} {v : Word} : fitsUnsigned n v = true ↔ zext (lowBits n v) = v := beq_iff_eq

theorem fitsSigned_sext {n : Nat} (f : BitVec n) (hn : n ≤ 16) : fitsSigned n (sext f) = true := by
  rw [fitsSigned_iff_eq, lowBits_sext f hn]

theorem fitsUnsigned_zext {n : Nat} (f : BitVec n) (hn : n ≤ 16) : fitsUnsigned n (zext f) = true := by
  rw [fitsUnsigned_iff_eq, lowBits_zext f hn]

theorem toInt_sext {n : Nat} (f : BitVec n) (hn : n ≤ 16) : (sext f).toInt = f.toInt :=
  BitVec.toInt_signExtend_of_le hn

theorem fitsSigned_iff_toInt {n : Nat} (hpos : 0 < n) (hn : n ≤ 16) (v : Word) :
    fitsSigned n v = true ↔ -2 ^ (n - 1) ≤ v.toInt ∧ v.toInt < 2 ^ (n - 1) := by
  constructor
  · intro h
    rw [← fitsSigned_iff_eq.1 h, toInt_sext _ hn]
    exact ⟨BitVec.le_toInt _, BitVec.toInt_lt⟩
  · rintro ⟨hlow, hhigh⟩
    have hfield : sext (BitVec.ofInt n v.toInt) = v :=
      BitVec.eq_of_toInt_eq (by rw [toInt_sext _ hn, BitVec.toInt_ofInt_eq_self hpos hlow hhigh])
    rw [← hfield]
    exact fitsSigned_sext _ hn

theorem fitsUnsigned_iff_toNat {n : Nat} (hn : n ≤ 16) (v : Word) :
    fitsUnsigned n v = true ↔ v.toNat < 2 ^ n := by
  have hread : (zext (lowBits n v)).toNat = v.toNat % 2 ^ n := by
    rw [zext, lowBits, BitVec.toNat_setWidth_of_le hn, BitVec.toNat_setWidth]
  rw [fitsUnsigned_iff_eq, ← BitVec.toNat_inj, hread, Nat.mod_eq_iff_lt (Nat.two_pow_pos n).ne']

/-- Settles O8, from the range of the signed (for the vector the unsigned) readings of a field. -/
theorem immediateRanges : Obligations.ImmediateRanges := by
  unfold Obligations.ImmediateRanges
  intro v
  have imm5 : fitsSigned 5 v = true ↔ -16 ≤ v.toInt ∧ v.toInt < 16 := fitsSigned_iff_toInt (by decide) (by decide) v
  have offset6 : fitsSigned 6 v = true ↔ -32 ≤ v.toInt ∧ v.toInt < 32 := fitsSigned_iff_toInt (by decide) (by decide) v
  have offset9 : fitsSigned 9 v = true ↔ -256 ≤ v.toInt ∧ v.toInt < 256 :=
    fitsSigned_iff_toInt (by decide) (by decide) v
  have offset11 : fitsSigned 11 v = true ↔ -1024 ≤ v.toInt ∧ v.toInt < 1024 :=
    fitsSigned_iff_toInt (by decide) (by decide) v
  have trapvect8 : fitsUnsigned 8 v = true ↔ v.toNat < 256 := fitsUnsigned_iff_toNat (by decide) v
  rw [imm5, offset6, offset9, offset11, trapvect8]
  omega

/-! ### Fields in their places (R8) -/

/-- The word whose bits from `lo` up to `lo + n - 1` are set. -/
def ones (lo n : Nat) : Word := put (BitVec.allOnes n) lo

theorem put_field (w : Word) (lo n : Nat) : put (field w lo n) lo = w &&& ones lo n := by
  apply BitVec.eq_of_getLsbD_eq
  intro i hi
  by_cases hlo : i < lo
  · simp [ones, put, field, hi, hlo]
  · have hplace : lo + (i - lo) = i := by omega
    simp [ones, put, field, hi, hlo, hplace, Bool.and_comm]

theorem put_of_field {w : Word} {lo n : Nat} {k : BitVec n} (h : field w lo n = k) : put k lo = w &&& ones lo n :=
  h ▸ put_field w lo n

theorem field_one (w : Word) (i : Nat) : field w i 1 = BitVec.ofBool (bit w i) := by
  apply BitVec.eq_of_getLsbD_eq
  intro j hj
  obtain rfl : j = 0 := by omega
  simp [field, bit]

theorem put_of_bit {w : Word} {i : Nat} {b : Bool} (h : bit w i = b) :
    put (BitVec.ofBool b) i = w &&& ones i 1 :=
  put_of_field (by rw [field_one, h])

theorem bit_eq_field {w : Word} {lo n j : Nat} (hj : j < n) : bit w (lo + j) = (field w lo n).getLsbD j := by
  simp [bit, field, hj]

theorem field_xor (w x : Word) (lo n : Nat) : field (w ^^^ x) lo n = field w lo n ^^^ field x lo n :=
  BitVec.extractLsb'_xor

theorem field_and (w x : Word) (lo n : Nat) : field (w &&& x) lo n = field w lo n &&& field x lo n :=
  BitVec.extractLsb'_and

/-- A field outside the changed bits is as before. -/
theorem field_xor_outside {w x u : Word} {lo n : Nat} (hx : x &&& u = x) (hu : field u lo n = 0#n) :
    field (w ^^^ x) lo n = field w lo n := by
  have hzero : field x lo n = 0#n := by rw [← hx, field_and, hu, BitVec.and_zero]
  rw [field_xor, hzero, BitVec.xor_zero]

theorem bit_xor_outside {w x u : Word} {i : Nat} (hx : x &&& u = x) (hu : field u i 1 = 0#1) :
    bit (w ^^^ x) i = bit w i := by
  have hlow (y : Word) : bit y i = (field y i 1).getLsbD 0 := bit_eq_field (j := 0) Nat.one_pos
  rw [hlow, hlow, field_xor_outside hx hu]

/-! ### The row of a word (R49 to R56) -/

/-- `InRow w i u`: by its opcode and mode bit (R49, R51) the word stands in the row of `i`, whose operands are the
row's fields of `w` (R50), and `u` are the bits that the row does not use (R56). -/
inductive InRow (w : Word) : Instr → Word → Prop
  | addReg (hop : field w 12 4 = 0x1#4) (hmode : bit w 5 = false) :
      InRow w (.addReg (field w 9 3) (field w 6 3) (field w 0 3)) 0x0018#16
  | addImm (hop : field w 12 4 = 0x1#4) (hmode : bit w 5 = true) :
      InRow w (.addImm (field w 9 3) (field w 6 3) (sext (field w 0 5))) 0x0000#16
  | andReg (hop : field w 12 4 = 0x5#4) (hmode : bit w 5 = false) :
      InRow w (.andReg (field w 9 3) (field w 6 3) (field w 0 3)) 0x0018#16
  | andImm (hop : field w 12 4 = 0x5#4) (hmode : bit w 5 = true) :
      InRow w (.andImm (field w 9 3) (field w 6 3) (sext (field w 0 5))) 0x0000#16
  | notReg (hop : field w 12 4 = 0x9#4) : InRow w (.notReg (field w 9 3) (field w 6 3)) 0x003F#16
  | br (hop : field w 12 4 = 0x0#4) : InRow w (.br (field w 9 3) (sext (field w 0 9))) 0x0000#16
  | jmp (hop : field w 12 4 = 0xC#4) : InRow w (.jmp (field w 6 3)) 0x0E3F#16
  | jsr (hop : field w 12 4 = 0x4#4) (hmode : bit w 11 = true) : InRow w (.jsr (sext (field w 0 11))) 0x0000#16
  | jsrr (hop : field w 12 4 = 0x4#4) (hmode : bit w 11 = false) : InRow w (.jsrr (field w 6 3)) 0x063F#16
  | ld (hop : field w 12 4 = 0x2#4) : InRow w (.ld (field w 9 3) (sext (field w 0 9))) 0x0000#16
  | st (hop : field w 12 4 = 0x3#4) : InRow w (.st (field w 9 3) (sext (field w 0 9))) 0x0000#16
  | ldr (hop : field w 12 4 = 0x6#4) : InRow w (.ldr (field w 9 3) (field w 6 3) (sext (field w 0 6))) 0x0000#16
  | str (hop : field w 12 4 = 0x7#4) : InRow w (.str (field w 9 3) (field w 6 3) (sext (field w 0 6))) 0x0000#16
  | rti (hop : field w 12 4 = 0x8#4) : InRow w (.rti (field w 0 12)) 0x0FFF#16
  | ldi (hop : field w 12 4 = 0xA#4) : InRow w (.ldi (field w 9 3) (sext (field w 0 9))) 0x0000#16
  | sti (hop : field w 12 4 = 0xB#4) : InRow w (.sti (field w 9 3) (sext (field w 0 9))) 0x0000#16
  | res (hop : field w 12 4 = 0xD#4) : InRow w (.res (field w 0 12)) 0x0FFF#16
  | lea (hop : field w 12 4 = 0xE#4) : InRow w (.lea (field w 9 3) (sext (field w 0 9))) 0x0000#16
  | trap (hop : field w 12 4 = 0xF#4) : InRow w (.trap (zext (field w 0 8))) 0x0F00#16

theorem exists_inRow_of_opcode {w : Word} : ∀ k : Fin 16, field w 12 4 = BitVec.ofFin k → ∃ i u, InRow w i u
  | 0, hop => ⟨_, _, .br hop⟩
  | 1, hop => by
    cases hmode : bit w 5
    · exact ⟨_, _, .addReg hop hmode⟩
    · exact ⟨_, _, .addImm hop hmode⟩
  | 2, hop => ⟨_, _, .ld hop⟩
  | 3, hop => ⟨_, _, .st hop⟩
  | 4, hop => by
    cases hmode : bit w 11
    · exact ⟨_, _, .jsrr hop hmode⟩
    · exact ⟨_, _, .jsr hop hmode⟩
  | 5, hop => by
    cases hmode : bit w 5
    · exact ⟨_, _, .andReg hop hmode⟩
    · exact ⟨_, _, .andImm hop hmode⟩
  | 6, hop => ⟨_, _, .ldr hop⟩
  | 7, hop => ⟨_, _, .str hop⟩
  | 8, hop => ⟨_, _, .rti hop⟩
  | 9, hop => ⟨_, _, .notReg hop⟩
  | 10, hop => ⟨_, _, .ldi hop⟩
  | 11, hop => ⟨_, _, .sti hop⟩
  | 12, hop => ⟨_, _, .jmp hop⟩
  | 13, hop => ⟨_, _, .res hop⟩
  | 14, hop => ⟨_, _, .lea hop⟩
  | 15, hop => ⟨_, _, .trap hop⟩
  | ⟨n + 16, hn⟩, _ => absurd hn (by omega)

theorem bits_of_opcode {w : Word} {k : BitVec 4} (hop : field w 12 4 = k) :
    bit w 15 = k.getLsbD 3 ∧ bit w 14 = k.getLsbD 2 ∧ bit w 13 = k.getLsbD 1 ∧ bit w 12 = k.getLsbD 0 := by
  have hbit (j : Nat) (hj : j < 4) : bit w (12 + j) = k.getLsbD j := hop ▸ bit_eq_field hj
  exact ⟨hbit 3 (by decide), hbit 2 (by decide), hbit 1 (by decide), hbit 0 (by decide)⟩

theorem InRow.decode_eq {w u : Word} {i : Instr} (h : InRow w i u) : decode w = i := by
  cases h with
  | addReg hop hmode | addImm hop hmode | andReg hop hmode | andImm hop hmode | jsr hop hmode | jsrr hop hmode =>
    obtain ⟨h15, h14, h13, h12⟩ := bits_of_opcode hop
    rw [decode, h15, h14, h13, h12, hmode]
    rfl
  | notReg hop | br hop | jmp hop | ld hop | st hop | ldr hop | str hop | rti hop | ldi hop | sti hop | res hop
  | lea hop | trap hop =>
    obtain ⟨h15, h14, h13, h12⟩ := bits_of_opcode hop
    rw [decode, h15, h14, h13, h12]
    rfl

theorem InRow.unusedBits_eq {w u : Word} {i : Instr} (h : InRow w i u) : unusedBits w = u := by
  cases h with
  | addReg hop hmode | addImm hop hmode | andReg hop hmode | andImm hop hmode | jsr hop hmode | jsrr hop hmode =>
    rw [field] at hop
    rw [bit] at hmode
    rw [unusedBits, hop, hmode]
    rfl
  | notReg hop | br hop | jmp hop | ld hop | st hop | ldr hop | str hop | rti hop | ldi hop | sti hop | res hop
  | lea hop | trap hop =>
    rw [field] at hop
    rw [unusedBits, hop]
    rfl

theorem inRow_decode (w : Word) : InRow w (decode w) (unusedBits w) := by
  obtain ⟨i, u, h⟩ := exists_inRow_of_opcode (field w 12 4).toFin rfl
  rwa [h.decode_eq, h.unusedBits_eq]

/-! ### What a word decodes to (R53, R55) -/

theorem InRow.wellFormed {w u : Word} {i : Instr} (h : InRow w i u) : i.wellFormed = true := by
  cases h with
  | addReg | andReg | notReg | jmp | jsrr | rti | res => rfl
  | addImm | andImm | br | jsr | ld | st | ldr | str | ldi | sti | lea => exact fitsSigned_sext _ (by decide)
  | trap => exact fitsUnsigned_zext _ (by decide)

/-- Settles O4, row by row: the decoder extends a field of the row's width. -/
theorem decodedIsWellFormed : Obligations.DecodedIsWellFormed := by
  unfold Obligations.DecodedIsWellFormed
  intro w
  exact (inRow_decode w).wellFormed

theorem and_ones_or_of_field {w : Word} {lo n i : Nat} {k : BitVec n} {b : Bool} (hop : field w lo n = k)
    (hmode : bit w i = b) : w &&& (ones lo n ||| ones i 1) = put k lo ||| put (BitVec.ofBool b) i := by
  rw [BitVec.and_or_distrib_left, put_of_field hop, put_of_bit hmode]

theorem InRow.matches {w u : Word} {i : Instr} (h : InRow w i u) : w &&& (rowOf i).1 = (rowOf i).2 := by
  cases h with
  | addReg hop hmode | addImm hop hmode | andReg hop hmode | andImm hop hmode | jsr hop hmode | jsrr hop hmode =>
    exact and_ones_or_of_field hop hmode
  | notReg hop | br hop | jmp hop | ld hop | st hop | ldr hop | str hop | rti hop | ldi hop | sti hop | res hop
  | lea hop | trap hop => exact (put_of_field hop).symm

theorem rowOf_mem (i : Instr) : rowOf i ∈ opcodeRows := by cases i <;> simp [rowOf, opcodeRows]

/-- Two rows of the table differ in a bit that both masks hold. -/
theorem opcodeRows_pairwise_differ : opcodeRows.Pairwise fun r r' => r.2 &&& r'.1 ≠ r'.2 &&& r.1 := by decide

theorem opcodeRows_disjoint : ∀ r ∈ opcodeRows, ∀ r' ∈ opcodeRows, r.2 &&& r'.1 = r'.2 &&& r.1 → r = r' := by
  intro r hr r' hr' heq
  by_contra hne
  have hsymm : Std.Symm fun r r' : Word × Word => r.2 &&& r'.1 ≠ r'.2 &&& r.1 := ⟨fun _ _ => Ne.symm⟩
  exact opcodeRows_pairwise_differ.forall hr hr' hne heq

/-- Settles O5: a word matches its own row, and no word matches two. -/
theorem everyWordMatchesOneRow : Obligations.EveryWordMatchesOneRow := by
  unfold Obligations.EveryWordMatchesOneRow
  intro w row hrow
  have hown := (inRow_decode w).matches
  constructor
  · intro hmatch
    refine opcodeRows_disjoint row hrow _ (rowOf_mem _) ?_
    rw [← hmatch, ← hown, BitVec.and_assoc, BitVec.and_assoc, BitVec.and_comm row.1]
  · rintro rfl
    exact hown

/-! ### Encoding what a word decodes to (R50, R56) -/

theorem and_and_used (w : Word) {m u : Word} (h : m &&& ~~~u = ~~~u) : w &&& m &&& ~~~u = w &&& ~~~u := by
  rw [BitVec.and_assoc, h]

/-- A clear mode bit is part of the row's fixed bits as the opcode is. -/
theorem put_of_field_clear {w : Word} {lo n i : Nat} {k : BitVec n} (hop : field w lo n = k)
    (hmode : bit w i = false) : put k lo = w &&& (ones lo n ||| ones i 1) := by
  rw [and_ones_or_of_field hop hmode]
  simp [put]

theorem InRow.encode_and_used {w u : Word} {i : Instr} (h : InRow w i u) : encode i &&& ~~~u = w &&& ~~~u := by
  cases h with
  | addImm hop hmode | andImm hop hmode | jsr hop hmode =>
    have hset : put 1#1 _ = w &&& ones _ 1 := put_of_bit hmode
    simp only [encode, put_field, put_of_field hop, hset, lowBits_sext, Nat.reduceLeDiff, ← BitVec.and_or_distrib_left]
    exact and_and_used w (by decide)
  | addReg hop hmode | andReg hop hmode | jsrr hop hmode =>
    simp only [encode, put_field, put_of_field_clear hop hmode, ← BitVec.and_or_distrib_left]
    exact and_and_used w (by decide)
  | notReg hop =>
    simp only [encode, put_field, put_of_field hop, ← BitVec.and_or_distrib_left]
    rw [BitVec.and_or_distrib_right, and_and_used w (by decide)]
    exact BitVec.or_zero
  | jmp hop | rti hop | res hop =>
    simp only [encode, put_field, put_of_field hop, ← BitVec.and_or_distrib_left]
    exact and_and_used w (by decide)
  | br hop | ld hop | st hop | ldr hop | str hop | ldi hop | sti hop | lea hop =>
    simp only [encode, put_field, put_of_field hop, lowBits_sext, Nat.reduceLeDiff, ← BitVec.and_or_distrib_left]
    exact and_and_used w (by decide)
  | trap hop =>
    simp only [encode, put_field, put_of_field hop, lowBits_zext, Nat.reduceLeDiff, ← BitVec.and_or_distrib_left]
    exact and_and_used w (by decide)

/-- Settles O3, row by row: the row's fixed bits and its fields make up the used bits. -/
theorem encodeOfDecodeKeepsUsedBits : Obligations.EncodeOfDecodeKeepsUsedBits := by
  unfold Obligations.EncodeOfDecodeKeepsUsedBits
  intro w
  exact (inRow_decode w).encode_and_used

/-! ### Decoding what an instruction encodes to (R50, R53) -/

/-- Settles O2, by the instruction's format: each field of the word reads back what `encode` put there, and the
extension of the low bits of a well-formed immediate is that immediate. -/
theorem decodeOfEncode : Obligations.DecodeOfEncode := by
  unfold Obligations.DecodeOfEncode
  intro i hwf
  cases i with
  | addReg | andReg | notReg | jmp | jsrr | rti | res =>
    simp [decode, encode, field_put_below, field_put_above]
  | addImm | andImm | br | jsr | ld | st | ldr | str | ldi | sti | lea =>
    rw [Instr.wellFormed, fitsSigned_iff_eq] at hwf
    simp [decode, encode, field_put_below, field_put_above, hwf]
  | trap =>
    rw [Instr.wellFormed, fitsUnsigned_iff_eq] at hwf
    simp [decode, encode, field_put_below, hwf]

/-! ### Changing unused bits (R56) -/

theorem InRow.opcode_used {w u : Word} {i : Instr} (h : InRow w i u) : field u 12 4 = 0#4 := by
  cases h <;> decide

theorem opcode_xor_unused {w x : Word} (hx : x &&& unusedBits w = x) : field (w ^^^ x) 12 4 = field w 12 4 :=
  field_xor_outside hx (inRow_decode w).opcode_used

/-- The decoder looks at no unused bit. -/
theorem InRow.decode_xor {w x u : Word} {i : Instr} (h : InRow w i u) (hx : x &&& u = x)
    (hrti : field w 12 4 ≠ 0x8#4) (hres : field w 12 4 ≠ 0xD#4) : decode (w ^^^ x) = i := by
  cases h with
  | rti hop => exact absurd hop hrti
  | res hop => exact absurd hop hres
  | addReg hop hmode | addImm hop hmode | andReg hop hmode | andImm hop hmode | jsr hop hmode | jsrr hop hmode =>
    obtain ⟨h15, h14, h13, h12⟩ := bits_of_opcode hop
    simp (disch := decide) [decode, bit_xor_outside hx, field_xor_outside hx, h15, h14, h13, h12, hmode]
  | notReg hop | br hop | jmp hop | ld hop | st hop | ldr hop | str hop | ldi hop | sti hop | lea hop | trap hop =>
    obtain ⟨h15, h14, h13, h12⟩ := bits_of_opcode hop
    simp (disch := decide) [decode, bit_xor_outside hx, field_xor_outside hx, h15, h14, h13, h12]

section
variable {w x : Word}

theorem decode_xor_unused (hx : x &&& unusedBits w = x) (hrti : field w 12 4 ≠ 0x8#4) (hres : field w 12 4 ≠ 0xD#4) :
    decode (w ^^^ x) = decode w :=
  (inRow_decode w).decode_xor hx hrti hres

theorem put_opcode_or_rest {k : BitVec 4} (hop : field w 12 4 = k) : put k 12 ||| put (field w 0 12) 0 = w := by
  rw [put_field, put_of_field hop, ← BitVec.and_or_distrib_left]
  exact BitVec.and_allOnes

/-- RTI and RES do one thing, and the word they hand over is the fetched one: their operand holds all its low bits. -/
theorem exec_reserved (hop : field w 12 4 = 0x8#4 ∨ field w 12 4 = 0xD#4) (s : State) :
    exec (decode w) s = .next (s.reservedOpcode w) := by
  obtain hrti | hres := hop
  · have hword : encode (.rti (field w 0 12)) = w := put_opcode_or_rest hrti
    rw [(InRow.rti hrti).decode_eq, exec_rti, hword]
  · have hword : encode (.res (field w 0 12)) = w := put_opcode_or_rest hres
    rw [(InRow.res hres).decode_eq, exec_res, hword]

theorem State.reservedOpcode_inert {s : State} (hpolicy : s.cfg.illegalPolicy = .inert) (w : Word) :
    s.reservedOpcode w = s := by
  rw [State.reservedOpcode, hpolicy]

theorem State.reservedOpcode_fault {s : State} (hpolicy : s.cfg.illegalPolicy = .fault) (w : Word) :
    s.reservedOpcode w = s.raiseIllegalOpcode w := by
  rw [State.reservedOpcode, hpolicy]

theorem exec_xor_unused_inert {s : State} (hx : x &&& unusedBits w = x) (hpolicy : s.cfg.illegalPolicy = .inert) :
    exec (decode (w ^^^ x)) s = exec (decode w) s := by
  by_cases hop : field w 12 4 = 0x8#4 ∨ field w 12 4 = 0xD#4
  · have hop' := hop
    rw [← opcode_xor_unused hx] at hop'
    rw [exec_reserved hop, exec_reserved hop', State.reservedOpcode_inert hpolicy, State.reservedOpcode_inert hpolicy]
  · obtain ⟨hrti, hres⟩ := not_or.1 hop
    rw [decode_xor_unused hx hrti hres]

end

/-- Settles O6: no unused bit reaches the decoded instruction but in RTI and RES, which hand the whole word to the
fault record (R94) and nothing else. -/
theorem unusedBitsIgnored : Obligations.UnusedBitsIgnored := by
  unfold Obligations.UnusedBitsIgnored
  refine ⟨fun w x => decode_xor_unused, fun w x s => exec_xor_unused_inert, fun w x s hop hx hpolicy => ?_⟩
  have hop' : field (w ^^^ x) 12 4 = 0x8#4 ∨ field (w ^^^ x) 12 4 = 0xD#4 := opcode_xor_unused hx ▸ hop
  rw [exec_reserved hop, exec_reserved hop', State.reservedOpcode_fault hpolicy, State.reservedOpcode_fault hpolicy]
  exact ⟨rfl, rfl⟩

/-! ### Sample words -/

/-- Settles O1, by decoding the thirteen words. -/
theorem sampleWordsDecode : Obligations.SampleWordsDecode := by
  unfold Obligations.SampleWordsDecode
  decide

end Sys2Proof.Machine
end

section
/-! PROOFS of the family 40_engine: a state that takes no step (R66), what a step runs (R61, R64), a fetch that polls
(R61, R38), and a step that asks no oracle (R67). -/

namespace Sys2Proof.Machine

/-! ### A stopped engine (R66, R94, R105) -/

/-- Settles O52, by induction on the number of steps: the state that a step answers is the same stopped one. -/
theorem stoppedStays : Obligations.StoppedStays := by
  unfold Obligations.StoppedStays
  intro s k hstopped
  induction k with
  | zero => rfl
  | succ k ih => rw [run_step_next k (step_stopped hstopped), ih]

/-! ### What a step runs (R61, R64) -/

/-- Settles O49: the plain fetch reads the stored word. -/
theorem stepRunsDecodedInstruction : Obligations.StepRunsDecodedInstruction := by
  unfold Obligations.StepRunsDecodedInstruction
  intro s hrun hgo hpc
  exact step_of_plain_fetch hrun hgo hpc

/-- Settles O50: the fetch is the poll of `statusReadPolls`, in the state past the boundary. -/
theorem fetchAtStatusPolls : Obligations.FetchAtStatusPolls := by
  unfold Obligations.FetchAtStatusPolls
  intro s hrun hgo hpc
  obtain ⟨hkey, hnone, hframe⟩ := statusReadPolls s.passBoundary
  have hkeyboard := congrArg State.keyboard hframe
  simp only [State.passBoundary_cfg, State.passBoundary_keyAnswer, ← hpc] at hkey hnone hkeyboard
  refine ⟨s.passBoundary.fetch.2, s.passBoundary.fetch.1, step_running hrun hgo, ?_⟩
  rw [← and_assoc, ← hpc]
  refine ⟨?_, rfl, fun r _ => by simp, by simp, hkeyboard, by simp, by simp, by simp [Channel.asked],
    by simp [ConsoleSame]⟩
  cases hanswer : s.keyAnswer with
  | some k =>
    obtain ⟨hword, hstatus, hdata, hmem⟩ := hkey k hanswer
    exact ⟨.inl ⟨k, rfl, hword, hdata, hmem⟩, hstatus.trans hword.symm⟩
  | none =>
    obtain ⟨hword, hstatus, hmem⟩ := hnone hanswer
    exact ⟨.inr ⟨rfl, hword, hmem⟩, hstatus.trans hword.symm⟩

/-! ### A step that asks no oracle (R67) -/

/-- The three interfaces whose answers R67 leaves free: the keyboard, the console and the external services. -/
structure Oracles where
  keyboard : Channel (Option Word)
  consoleIn : Channel (Option Word)
  services : Channel ServiceReply

/-- A state's own oracles. -/
def State.oracles (s : State) : Oracles := ⟨s.keyboard, s.consoleIn, s.services⟩

/-- The state with other oracles. -/
def State.withOracles (s : State) (o : Oracles) : State :=
  { s with keyboard := o.keyboard, consoleIn := o.consoleIn, services := o.services }

@[simp] theorem State.withOracles_pc (s : State) (o : Oracles) : (s.withOracles o).pc = s.pc := rfl

@[simp] theorem State.withOracles_peek (s : State) (o : Oracles) (a : Word) : (s.withOracles o).peek a = s.peek a := rfl

theorem Channel.asked_ne {α : Type} (c : Channel α) : c.asked ≠ c := fun h =>
  Nat.succ_ne_self c.draws (congrArg Channel.draws h)

theorem State.draws_le_memRead (s : State) (a : Word) : s.keyboard.draws ≤ (s.memRead a).2.keyboard.draws := by
  obtain h | h := s.memRead_draws a
  · rw [h]
  · rw [h]; exact Nat.le_succ _

/-- A read that has not asked the keyboard is no poll. -/
theorem State.ne_kbsrAddr_of_draws {s : State} {a : Word}
    (h : (s.memRead a).2.keyboard.draws ≤ s.keyboard.draws) : a ≠ s.cfg.kbsrAddr := by
  obtain ⟨hplain, _⟩ | ⟨_, k, _, e⟩ | ⟨_, _, e⟩ := s.memRead_cases a
  · exact hplain
  · rw [e] at h; exact absurd h (Nat.not_succ_le_self _)
  · rw [e] at h; exact absurd h (Nat.not_succ_le_self _)

theorem PollsOnly.draws_le {s u : State} (h : PollsOnly s u) : s.keyboard.draws ≤ u.keyboard.draws := by
  obtain ⟨_, hsame⟩ | hmore := h.polled
  · rw [hsame]
  · exact hmore.le

theorem exec_draws_le {i : Instr} {s t : State} (h : exec i s = .next t) : s.keyboard.draws ≤ t.keyboard.draws := by
  cases exec_memEffect h with
  | reads _ hpolls => exact hpolls.draws_le
  | store _ _ hpolls => exact hpolls.draws_le

/-! Operations that ask no oracle commute with replacing the oracles. -/

theorem State.memRead_withOracles {s : State} {a : Word} (o : Oracles)
    (h : (s.memRead a).2.keyboard.draws ≤ s.keyboard.draws) :
    (s.withOracles o).memRead a = ((s.memRead a).1, (s.memRead a).2.withOracles o) := by
  have hplain : a ≠ s.cfg.kbsrAddr := State.ne_kbsrAddr_of_draws h
  rw [State.memRead_of_ne hplain]
  exact State.memRead_of_ne hplain

theorem State.loadInto_withOracles {s : State} {a : Word} (o : Oracles) (dr : RegIdx)
    (h : (s.memRead a).2.keyboard.draws ≤ s.keyboard.draws) :
    (s.withOracles o).loadInto dr a = (s.loadInto dr a).withOracles o := by
  rw [State.loadInto, State.memRead_withOracles o h]; rfl

theorem State.trapEntry_withOracles (s : State) (o : Oracles) :
    (s.withOracles o).trapEntry = s.trapEntry.withOracles o :=
  (apply_ite (fun u : State => u.withOracles o) (s.cfg.trapLinkR7 = true) s.linkR7 s).symm

theorem State.reservedOpcode_withOracles (s : State) (o : Oracles) (w : Word) :
    (s.withOracles o).reservedOpcode w = (s.reservedOpcode w).withOracles o := by
  obtain ⟨hpolicy, e⟩ | ⟨hpolicy, e⟩ := s.reservedOpcode_cases w
  · rw [e]; exact State.reservedOpcode_inert (s := s.withOracles o) hpolicy w
  · rw [e]; exact State.reservedOpcode_fault (s := s.withOracles o) hpolicy w

theorem stringAt_withOracles (s : State) (o : Oracles) (a : Word) (fuel : Nat) :
    stringAt (s.withOracles o) a fuel = stringAt s a fuel := by
  induction fuel generalizing a with
  | zero => rfl
  | succ fuel ih => simp only [stringAt, State.withOracles_peek, ih]

theorem State.string_withOracles (s : State) (o : Oracles) : (s.withOracles o).string = s.string :=
  stringAt_withOracles s o (s.reg 0#3) 65536

/-- The outcome with other oracles in the state it answers, if any. -/
def ServiceOutcome.withOracles (o : Oracles) : ServiceOutcome → ServiceOutcome
  | .resume s => .resume (s.withOracles o)
  | .halt s => .halt (s.withOracles o)
  | .never why => .never why

theorem ServiceOutcome.complete_withOracles {out : ServiceOutcome} {t : State} (o : Oracles)
    (h : out.complete = .next t) : (out.withOracles o).complete = .next (t.withOracles o) := by
  obtain rfl | ⟨u, rfl, rfl⟩ := ServiceOutcome.complete_eq_next h
  · rfl
  · rfl

/-- Whether a service asks the console or an external relation when it completes (R90). -/
def serviceAsks : Service → Bool
  | .getc => true
  | .inp => true
  | .external _ _ => true
  | .out => false
  | .puts => false
  | .putsp => false
  | .halt => false
  | .unknown => false

theorem runService_withOracles {sv : Service} (hquiet : serviceAsks sv = false) (v : Word) (s : State) (o : Oracles) :
    runService sv v (s.withOracles o) = (runService sv v s).withOracles o := by
  cases sv with
  | getc | inp | external => exact absurd hquiet (by simp [serviceAsks])
  | out | halt | unknown => rfl
  | puts | putsp =>
    simp only [runService, serviceString, State.string_withOracles]
    split <;> rfl

/-- A TRAP that leaves the oracles as they were has called a service that asks none. -/
theorem serviceAsks_of_quiet_trap {v : Word} {s t : State} (h : exec (.trap v) s = .next t)
    (hquiet : t.oracles = s.oracles) : serviceAsks (s.service v) = false := by
  have hconsole : t.consoleIn = s.consoleIn := congrArg Oracles.consoleIn hquiet
  have hservices : t.services = s.services := congrArg Oracles.services hquiet
  obtain ⟨k, _, _, rfl⟩ | ⟨k, _, _, rfl⟩ | ⟨es, hservice, _⟩ | ⟨hservice, _⟩ | ⟨hservice, _⟩ |
    ⟨ws, wc, _, _, ⟨_, rfl⟩ | ⟨_, rfl⟩⟩ := exec_trap_cases h
  · exact absurd (by simpa using hconsole) s.consoleIn.asked_ne
  · exact absurd (by simpa using hconsole) s.consoleIn.asked_ne
  · obtain hservice | hservice | hservice := hservice <;> rw [hservice] <;> rfl
  · rw [hservice]; rfl
  · rw [hservice]; rfl
  · exact absurd (by simpa using hservices) s.services.asked_ne
  · exact absurd (by simpa using hservices) s.services.asked_ne

/-- An instruction that asks no oracle does the same with any other answers to come. -/
theorem exec_withOracles {i : Instr} {s t : State} (o : Oracles) (h : exec i s = .next t)
    (hquiet : t.oracles = s.oracles) : exec i (s.withOracles o) = .next (t.withOracles o) := by
  have hdraws : t.keyboard.draws ≤ s.keyboard.draws := (congrArg (·.keyboard.draws) hquiet).le
  cases i with
  | addReg | addImm | andReg | andImm | notReg | lea | jmp | jsr | jsrr | st | str =>
    obtain rfl := Host.Outcome.next.inj h
    rfl
  | br nzp off =>
    obtain rfl := Host.Outcome.next.inj h
    exact congrArg Host.Outcome.next
      (apply_ite (fun u : State => u.withOracles o) (s.branchTaken nzp = true) (s.setPc (s.pc + off)) s).symm
  | ld dr | ldr dr =>
    obtain rfl := Host.Outcome.next.inj h
    exact congrArg Host.Outcome.next (State.loadInto_withOracles o dr hdraws)
  | ldi dr off =>
    obtain rfl := Host.Outcome.next.inj h
    have hpointer := (State.draws_le_memRead (s.memRead (s.pc + off)).2 _).trans hdraws
    have hdata := hdraws.trans (State.draws_le_memRead s (s.pc + off))
    rw [exec_ldi, State.withOracles_pc, State.memRead_withOracles o hpointer]
    exact congrArg Host.Outcome.next (State.loadInto_withOracles o dr hdata)
  | sti sr off =>
    rw [exec_sti] at h
    obtain rfl := Host.Outcome.next.inj h
    rw [exec_sti, State.withOracles_pc, State.memRead_withOracles o hdraws]; rfl
  | rti x | res x =>
    obtain rfl := Host.Outcome.next.inj h
    exact congrArg Host.Outcome.next (State.reservedOpcode_withOracles s o _)
  | trap v =>
    have hservice := runService_withOracles (serviceAsks_of_quiet_trap h hquiet) v s.trapEntry o
    rw [exec_trap, State.trapEntry_withOracles]
    rw [exec_trap] at h
    exact (congrArg _ hservice).trans (ServiceOutcome.complete_withOracles o h)

/-- So does a step: a fetch that polled would have asked the keyboard, and no instruction takes that back. -/
theorem step_withOracles {s t : State} (o : Oracles) (h : step s = .next t) (hquiet : t.oracles = s.oracles) :
    step (s.withOracles o) = .next (t.withOracles o) := by
  obtain ⟨hstopped, rfl⟩ | ⟨hrun, hstops, rfl⟩ | ⟨hrun, hgo, hexec⟩ := step_cases h
  · exact step_stopped hstopped
  · exact step_stop hrun hstops
  · have hdraws : t.keyboard.draws ≤ s.keyboard.draws := (congrArg (·.keyboard.draws) hquiet).le
    have hpc : s.pc ≠ s.cfg.kbsrAddr :=
      State.ne_kbsrAddr_of_draws (s := s.passBoundary) ((exec_draws_le hexec).trans hdraws)
    rw [step_of_plain_fetch hrun hgo hpc] at h
    exact (step_of_plain_fetch (s := s.withOracles o) hrun hgo hpc).trans (exec_withOracles o h hquiet)

/-- Settles O48: a channel counts its draws, so a step that leaves all three as they were has asked none. -/
theorem onlyOraclesAreFree : Obligations.OnlyOraclesAreFree := by
  unfold Obligations.OnlyOraclesAreFree
  intro s t kb con svc hstep hkeyboard hconsole hservices
  have hquiet : t.oracles = s.oracles := by simp only [State.oracles, hkeyboard, hconsole, hservices]
  exact step_withOracles ⟨kb, con, svc⟩ hstep hquiet

end Sys2Proof.Machine
end

section
/-! PROOFS of the family 41_operate: ADD, AND and NOT (R69 to R72), each of which ends by writing its result and the
result's flag (R22). -/

namespace Sys2Proof.Machine

/-! ### Writing a result (R22) -/

theorem State.writeResult_resultIn (s : State) (dr : RegIdx) (v : Word) : ResultIn s (s.writeResult dr v) dr v := by
  have hframe : RegsSame s (s.writeResult dr v) [dr] := fun r hr => by
    rw [State.writeResult_reg, if_neg (List.ne_of_not_mem_cons hr)]
  exact ⟨by rw [State.writeResult_reg, if_pos rfl], by rw [State.writeResult_cond, condOf_eq_flagFor], rfl, hframe⟩

theorem State.writeResult_outsideSame (s : State) (dr : RegIdx) (v : Word) : OutsideSame s (s.writeResult dr v) :=
  ⟨fun a _ => State.writeResult_peek s dr v a, rfl, ⟨rfl, rfl, rfl⟩, ⟨rfl, rfl, rfl⟩⟩

/-- What an instruction does that only writes a result into a register. -/
theorem result_and_frame_of_exec {i : Instr} {s : State} {dr : RegIdx} {v : Word}
    (h : exec i s = .next (s.writeResult dr v)) : ∃ t, exec i s = .next t ∧ ResultIn s t dr v ∧ OutsideSame s t :=
  ⟨_, h, s.writeResult_resultIn dr v, s.writeResult_outsideSame dr v⟩

/-! ### The two forms of ADD and AND (R50, R51) -/

theorem decode_eq_ite_of_inRow {w u u' : Word} {i j : Instr} (himm : bit w 5 = true → InRow w i u)
    (hreg : bit w 5 = false → InRow w j u') : decode w = if bit w 5 = true then i else j := by
  cases hmode : bit w 5 with
  | true => exact (himm hmode).decode_eq
  | false => exact (hreg hmode).decode_eq

/-! ### ADD, AND and NOT (R70 to R72) -/

/-- Settles O18: `w[5]` selects the form, and either form writes the sum of values read in the state before. -/
theorem addWritesSum : Obligations.AddWritesSum := by
  unfold Obligations.AddWritesSum
  refine ⟨fun w hop => decode_eq_ite_of_inRow (.addImm hop) (.addReg hop), fun dr sr1 sr2 s => ?_,
    fun dr sr1 imm s => ?_⟩
  · exact result_and_frame_of_exec (exec_addReg dr sr1 sr2 s)
  · exact result_and_frame_of_exec (exec_addImm dr sr1 imm s)

/-- Settles O19: `w[5]` selects the form, and either form writes the conjunction of values read in the state before. -/
theorem andWritesConjunction : Obligations.AndWritesConjunction := by
  unfold Obligations.AndWritesConjunction
  refine ⟨fun w hop => decode_eq_ite_of_inRow (.andImm hop) (.andReg hop), fun dr sr1 sr2 s => ?_,
    fun dr sr1 imm s => ?_⟩
  · exact result_and_frame_of_exec (exec_andReg dr sr1 sr2 s)
  · exact result_and_frame_of_exec (exec_andImm dr sr1 imm s)

/-- Settles O20: the opcode alone puts a word in NOT's row, and NOT writes the complement of the value read in the
state before. -/
theorem notWritesComplement : Obligations.NotWritesComplement := by
  unfold Obligations.NotWritesComplement
  refine ⟨fun w hop => (InRow.notReg hop).decode_eq, fun dr sr s => ?_⟩
  exact result_and_frame_of_exec (exec_notReg dr sr s)

end Sys2Proof.Machine
end

section
/-! PROOFS of the family 42_control: BR, JMP, JSR and JSRR (R73 to R77), each of which sets PC, the last two after the
link in R7. -/

namespace Sys2Proof.Machine

/-! ### Setting PC (R18) -/

theorem State.setPc_outsideSame (s : State) (v : Word) : OutsideSame s (s.setPc v) :=
  ⟨fun a _ => State.setPc_peek s v a, rfl, ⟨rfl, rfl, rfl⟩, ⟨rfl, rfl, rfl⟩⟩

/-- What an instruction does that only sets PC. -/
theorem target_and_frame_of_exec {i : Instr} {s : State} {v : Word} (h : exec i s = .next (s.setPc v)) :
    ∃ t, exec i s = .next t ∧ t.pc = v ∧ RegsSame s t [] ∧ t.cond = s.cond ∧ OutsideSame s t :=
  ⟨_, h, State.setPc_pc s v, fun r _ => State.setPc_reg s v r, State.setPc_cond s v, s.setPc_outsideSame v⟩

/-! ### Linking and setting PC (R17) -/

theorem State.linkR7_regsSame (s : State) : RegsSame s s.linkR7 [7#3] := fun r hr => by
  rw [State.linkR7_reg, if_neg (List.ne_of_not_mem_cons hr)]

/-- What an instruction does that only links and sets PC. -/
theorem link_and_frame_of_exec {i : Instr} {s : State} {v : Word} (h : exec i s = .next (s.linkR7.setPc v)) :
    ∃ t, exec i s = .next t ∧ t.pc = v ∧ t.reg 7#3 = s.pc ∧ RegsSame s t [7#3] ∧ t.cond = s.cond ∧
      OutsideSame s t := by
  have hlink : (s.linkR7.setPc v).reg 7#3 = s.pc := by rw [State.setPc_reg, State.linkR7_reg, if_pos rfl]
  -- Outside the registers, `linkR7` leaves the fields of `s` themselves.
  have hframe : OutsideSame s (s.linkR7.setPc v) := s.linkR7.setPc_outsideSame v
  exact ⟨_, h, rfl, hlink, s.linkR7_regsSame, rfl, hframe⟩

/-! ### BR, JMP, JSR and JSRR (R74 to R77) -/

/-- A BR that falls through sets PC to where it stands. -/
theorem exec_br_eq_setPc (nzp : BitVec 3) (off : Word) (s : State) :
    exec (.br nzp off) s = .next (s.setPc (if nzp.setWidth 16 &&& s.cond ≠ 0x0000#16 then s.pc + off else s.pc)) := by
  rw [exec_br]
  simp only [State.branchTaken_iff]
  split <;> rfl

/-- Settles O21: taken or not, BR only sets PC. -/
theorem branchTestsMask : Obligations.BranchTestsMask := by
  unfold Obligations.BranchTestsMask
  refine ⟨fun w hop => (InRow.br hop).decode_eq, fun nzp off s => ?_⟩
  exact target_and_frame_of_exec (exec_br_eq_setPc nzp off s)

/-- Settles O23: JMP sets PC to the value that BaseR holds. -/
theorem jumpTakesRegisterValue : Obligations.JumpTakesRegisterValue := by
  unfold Obligations.JumpTakesRegisterValue
  refine ⟨fun w hop => (InRow.jmp hop).decode_eq, fun baseR s => ?_⟩
  exact target_and_frame_of_exec (exec_jmp baseR s)

/-- Settles O24: `w[11]` selects JSR, whose target is relative to the PC that it links. -/
theorem jsrLinksAndJumps : Obligations.JsrLinksAndJumps := by
  unfold Obligations.JsrLinksAndJumps
  refine ⟨fun w hop hmode => (InRow.jsr hop hmode).decode_eq, fun off s => ?_⟩
  exact link_and_frame_of_exec (exec_jsr off s)

/-- Settles O25: `w[11]` selects JSRR, which reads BaseR in the linked state, where R7 is the incremented PC. -/
theorem jsrrLinksThenJumps : Obligations.JsrrLinksThenJumps := by
  unfold Obligations.JsrrLinksThenJumps
  refine ⟨fun w hop hmode => (InRow.jsrr hop hmode).decode_eq, fun baseR s => ?_⟩
  rw [← State.linkR7_reg]
  exact link_and_frame_of_exec (exec_jsrr baseR s)

end Sys2Proof.Machine
end

section
/-! PROOFS of the family 43_load: LD, LDI, LDR and LEA (R78 to R83). A load writes its result in the state that its
memory reads left; LEA reads none. -/

namespace Sys2Proof.Machine

/-! ### What a frame from before a memory read says (R35, R38) -/

theorem regsSame_memRead_iff {s t : State} {a : Word} {but : List RegIdx} :
    RegsSame (s.memRead a).2 t but ↔ RegsSame s t but := by
  simp only [RegsSame, State.memRead_reg]

theorem engineSame_memRead_iff {s t : State} {a : Word} : EngineSame (s.memRead a).2 t ↔ EngineSame s t := by
  simp only [EngineSame, State.memRead_run, State.memRead_cfg, State.memRead_host]

theorem consoleSame_memRead_iff {s t : State} {a : Word} : ConsoleSame (s.memRead a).2 t ↔ ConsoleSame s t := by
  simp only [ConsoleSame, State.memRead_consoleIn, State.memRead_consoleOut, State.memRead_services]

theorem resultIn_memRead_iff {s t : State} {a v : Word} {dr : RegIdx} :
    ResultIn (s.memRead a).2 t dr v ↔ ResultIn s t dr v := by
  simp only [ResultIn, State.memRead_pc, regsSame_memRead_iff]

/-- A load after a read (LDI's data after its pointer) may be judged from the state before that read. -/
theorem loadedFrom_memRead_iff {s s1 t : State} {p a : Word} {dr : RegIdx} :
    LoadedFrom (s.memRead p).2 s1 t dr a ↔ LoadedFrom s s1 t dr a := by
  simp only [LoadedFrom, resultIn_memRead_iff, engineSame_memRead_iff, consoleSame_memRead_iff]

/-! ### Loading a word (R22, R79) -/

theorem State.loadInto_loadedFrom (s : State) (dr : RegIdx) (a : Word) : LoadedFrom s s (s.loadInto dr a) dr a := by
  have hresult := (s.memRead a).2.writeResult_resultIn dr (s.memRead a).1
  obtain ⟨hmem, hkeyboard, hengine, hconsole⟩ := (s.memRead a).2.writeResult_outsideSame dr (s.memRead a).1
  refine ⟨resultIn_memRead_iff.1 hresult, hmem, hkeyboard, engineSame_memRead_iff.1 hengine,
    consoleSame_memRead_iff.1 hconsole, fun hplain => ?_⟩
  have hread : s.memRead a = (s.peek a, s) := State.memRead_of_ne hplain
  obtain ⟨hreg, _⟩ := hresult
  simp only [hread] at hreg hmem hkeyboard
  rw [State.loadInto, hread]
  exact ⟨hreg, hmem, hkeyboard⟩

/-- What an instruction does that only loads a word. -/
theorem loadedFrom_of_exec {i : Instr} {s : State} {dr : RegIdx} {a : Word}
    (h : exec i s = .next (s.loadInto dr a)) : ∃ t, exec i s = .next t ∧ LoadedFrom s s t dr a :=
  ⟨_, h, s.loadInto_loadedFrom dr a⟩

/-! ### LD, LDI, LDR and LEA (R80 to R83) -/

/-- Settles O27: LD only loads the word at the address relative to PC. -/
theorem ldLoads : Obligations.LdLoads := by
  unfold Obligations.LdLoads
  refine ⟨fun w hop => (InRow.ld hop).decode_eq, fun dr off s => ?_⟩
  exact loadedFrom_of_exec (exec_ld dr off s)

/-- Settles O28: LDI loads in the state that the pointer read left, which is the state before where that read does not
poll. -/
theorem ldiLoadsThroughPointer : Obligations.LdiLoadsThroughPointer := by
  unfold Obligations.LdiLoadsThroughPointer
  refine ⟨fun w hop => (InRow.ldi hop).decode_eq, fun dr off s => ⟨_, exec_ldi dr off s, ?_, fun hplain => ?_⟩⟩
  · exact loadedFrom_memRead_iff.1 (State.loadInto_loadedFrom _ dr _)
  · rw [State.memRead_of_ne hplain]
    exact s.loadInto_loadedFrom dr _

/-- Settles O29: LDR only loads the word at an address taken from the value that BaseR holds in the state before. -/
theorem ldrLoadsFromBase : Obligations.LdrLoadsFromBase := by
  unfold Obligations.LdrLoadsFromBase
  refine ⟨fun w hop => (InRow.ldr hop).decode_eq, fun dr baseR off s => ?_⟩
  exact loadedFrom_of_exec (exec_ldr dr baseR off s)

/-- Settles O30: LEA only writes the address as its result. -/
theorem leaWritesAddress : Obligations.LeaWritesAddress := by
  unfold Obligations.LeaWritesAddress
  refine ⟨fun w hop => (InRow.lea hop).decode_eq, fun dr off s => ?_⟩
  exact result_and_frame_of_exec (exec_lea dr off s)

end Sys2Proof.Machine
end

section
/-! PROOFS of the family 44_store: ST, STI and STR (R84 to R87). A store writes one word of memory; STI writes it in the
state that its pointer read left. -/

namespace Sys2Proof.Machine

/-! ### Storing a word (R36, R84) -/

theorem State.memWrite_storedAt (s : State) (a v : Word) : StoredAt s s (s.memWrite a v) a v := by
  obtain ⟨hword, hothers, _⟩ := memWriteSetsOneWord s a v
  have hmem : MemSame s (s.memWrite a v) [a] := fun b hb => hothers b (List.ne_of_not_mem_cons hb)
  exact ⟨hword, hmem, rfl, fun _ _ => rfl, rfl, rfl, ⟨rfl, rfl, rfl⟩, ⟨rfl, rfl, rfl⟩⟩

/-- What an instruction does that only stores a word. -/
theorem storedAt_of_exec {i : Instr} {s : State} {a v : Word} (h : exec i s = .next (s.memWrite a v)) :
    ∃ t, exec i s = .next t ∧ StoredAt s s t a v :=
  ⟨_, h, s.memWrite_storedAt a v⟩

/-- A store after a read (STI's word after its pointer) may be judged from the state before that read. -/
theorem storedAt_memRead_iff {s s1 t : State} {p a v : Word} :
    StoredAt (s.memRead p).2 s1 t a v ↔ StoredAt s s1 t a v := by
  simp only [StoredAt, State.memRead_cond, State.memRead_pc, regsSame_memRead_iff, engineSame_memRead_iff,
    consoleSame_memRead_iff]

/-! ### ST, STI and STR (R85 to R87) -/

/-- Settles O31: ST only stores the word at the address relative to PC. -/
theorem stStores : Obligations.StStores := by
  unfold Obligations.StStores
  refine ⟨fun w hop => (InRow.st hop).decode_eq, fun sr off s => ?_⟩
  exact storedAt_of_exec (exec_st sr off s)

/-- Settles O32: STI stores in the state that the pointer read left, which is the state before where that read does not
poll. -/
theorem stiStoresThroughPointer : Obligations.StiStoresThroughPointer := by
  unfold Obligations.StiStoresThroughPointer
  refine ⟨fun w hop => (InRow.sti hop).decode_eq, fun sr off s => ⟨_, exec_sti sr off s, ?_, fun hplain => ?_⟩⟩
  · exact storedAt_memRead_iff.1 (State.memWrite_storedAt _ _ _)
  · rw [State.memRead_of_ne hplain]
    exact s.memWrite_storedAt _ _

/-- Settles O33: STR only stores the word at an address taken from the value that BaseR holds. -/
theorem strStoresAtBase : Obligations.StrStoresAtBase := by
  unfold Obligations.StrStoresAtBase
  refine ⟨fun w hop => (InRow.str hop).decode_eq, fun sr baseR off s => ?_⟩
  exact storedAt_of_exec (exec_str sr baseR off s)

end Sys2Proof.Machine
end

section
/-! PROOFS of the family 45_trap_reserved: which service a vector reaches, TRAP to each of the default services, R90's
contract (R88 to R90), and the reserved opcodes (R91, R92). A TRAP links first, so each service is judged from the state
after the link write. -/

namespace Sys2Proof.Machine

/-! ### The service of a vector (R90) -/

theorem serviceAt_of_unlisted {table : List (Word × Service)} {v : Word} (h : ∀ row ∈ table, v ≠ row.1) :
    serviceAt table v = .unknown := by
  induction table with
  | nil => rfl
  | cons row rest ih =>
    rw [serviceAt, if_neg (h row (List.mem_cons_self ..))]
    exact ih fun row' hrow' => h row' (List.mem_cons_of_mem _ hrow')

theorem defaultTrapService_range : ∀ row ∈ defaultTrapService, 0x20 ≤ row.1.toNat ∧ row.1.toNat ≤ 0x25 := by decide

/-- Settles O34: the default table lists the vectors 0x20 to 0x25 and no other. -/
theorem defaultVectors : Obligations.DefaultVectors := by
  unfold Obligations.DefaultVectors
  refine ⟨fun w hop => (InRow.trap hop).decode_eq, rfl, rfl, rfl, rfl, rfl, rfl, fun v hv => ?_⟩
  refine serviceAt_of_unlisted (table := defaultTrapService) fun row hrow heq => ?_
  obtain ⟨hlow, hhigh⟩ := defaultTrapService_range row hrow
  rw [heq] at hv
  omega

/-! ### The entry of a TRAP (R88) -/

theorem State.trapEntry_reg_seven (s : State) : s.trapEntry.reg 7#3 = linkedR7 s := by
  rw [State.trapEntry_reg_linkedR7, if_pos rfl]

theorem State.trapEntry_regsSame (s : State) : RegsSame s s.trapEntry [7#3] := fun r hr => by
  rw [State.trapEntry_reg_linkedR7, if_neg (List.ne_of_not_mem_cons hr)]

theorem State.trapEntry_reg_zero (s : State) : s.trapEntry.reg 0#3 = s.reg 0#3 :=
  s.trapEntry_regsSame 0#3 (by decide)

theorem State.trapEntry_outsideSame (s : State) : OutsideSame s s.trapEntry :=
  ⟨fun a _ => s.trapEntry_peek a, s.trapEntry_keyboard, ⟨s.trapEntry_run, s.trapEntry_cfg, s.trapEntry_host⟩,
    ⟨s.trapEntry_consoleIn, s.trapEntry_consoleOut, s.trapEntry_services⟩⟩

theorem State.print_nil (s : State) : s.print [] = s := by
  rw [State.print, List.append_nil]

/-! ### TRAP to GETC or IN (R90) -/

/-- GETC and IN do the same but for what they write to the console: nothing, or a prompt and the echo. -/
theorem exec_trap_input {v : Word} {s : State} {k : Word} (hservice : s.service v = .getc ∨ s.service v = .inp)
    (hchar : s.charAnswer = some k) :
    exec (.trap v) s = .next
      ((s.trapEntry.askConsole.print (if s.service v = .inp then [.prompt, .echo k] else [])).writeResult 0#3 k) := by
  have hentry : s.trapEntry.charAnswer = some k := s.trapEntry_charAnswer.trans hchar
  rw [exec_trap]
  obtain hgetc | hin := hservice
  · rw [hgetc, runService, serviceGetc, hentry, if_neg (by decide), State.print_nil]; rfl
  · rw [hin, runService, serviceIn, hentry, if_pos rfl]; rfl

/-- Settles O35: the character is the result, written in the linked state into R0, which is not the link register. -/
theorem trapInputServices : Obligations.TrapInputServices := by
  unfold Obligations.TrapInputServices
  intro v s k hservice hchar
  have hexec := exec_trap_input hservice hchar
  generalize (if s.service v = .inp then [.prompt, .echo k] else [] : List ConsoleEvent) = es at hexec ⊢
  obtain ⟨hmem, hkeyboard, hengine, hin, hout, hservices⟩ := s.trapEntry_outsideSame
  obtain ⟨hresult, hcond, _, hregs⟩ := (s.trapEntry.askConsole.print es).writeResult_resultIn 0#3 k
  have hlink := (hregs 7#3 (by decide)).trans s.trapEntry_reg_seven
  refine ⟨_, hexec, hresult, hcond, hlink, fun r hr => ?_, s.trapEntry_pc, hmem, hkeyboard, hengine,
    congrArg Channel.asked hin, congrArg (· ++ es) hout, hservices⟩
  have hne0 : r ∉ [0#3] := fun h => hr (List.mem_append_left [7#3] h)
  exact (hregs r hne0).trans (s.trapEntry_regsSame r (List.not_mem_of_not_mem_cons hr))

/-! ### TRAP to OUT, to no service, and to HALT (R90) -/

theorem exec_trap_out_or_unknown {v : Word} {s : State} (hservice : s.service v = .out ∨ s.service v = .unknown) :
    exec (.trap v) s =
      .next (s.trapEntry.print (if s.service v = .out then [.char ((s.reg 0#3).extractLsb' 0 8)] else [])) := by
  rw [exec_trap]
  obtain hout | hunknown := hservice
  · rw [hout, runService, serviceOut, State.trapEntry_reg_zero, if_pos rfl]; rfl
  · rw [hunknown, runService, if_neg (by decide), State.print_nil]; rfl

/-- What a TRAP does whose service only writes to the console. -/
theorem printed_and_frame_of_exec {v : Word} {s : State} {es : List ConsoleEvent}
    (h : exec (.trap v) s = .next (s.trapEntry.print es)) :
    ∃ t, exec (.trap v) s = .next t ∧ t.reg 7#3 = linkedR7 s ∧ RegsSame s t [7#3] ∧ t.pc = s.pc ∧ t.cond = s.cond ∧
      MemSame s t [] ∧ t.keyboard = s.keyboard ∧ EngineSame s t ∧ t.consoleIn = s.consoleIn ∧
      t.consoleOut = s.consoleOut ++ es ∧ t.services = s.services := by
  obtain ⟨hmem, hkeyboard, hengine, hin, hout, hservices⟩ := s.trapEntry_outsideSame
  exact ⟨_, h, s.trapEntry_reg_seven, s.trapEntry_regsSame, s.trapEntry_pc, s.trapEntry_cond, hmem, hkeyboard, hengine,
    hin, congrArg (· ++ es) hout, hservices⟩

/-- Settles O36: OUT writes one character, and no service writes none. -/
theorem trapOutAndUnknown : Obligations.TrapOutAndUnknown := by
  unfold Obligations.TrapOutAndUnknown
  intro v s hservice
  exact printed_and_frame_of_exec (exec_trap_out_or_unknown hservice)

theorem exec_trap_halt {v : Word} {s : State} (hservice : s.service v = .halt) :
    exec (.trap v) s = .next (s.trapEntry.print [.haltMessage]).halt := by
  rw [exec_trap, hservice]; rfl

/-- Settles O38: HALT writes its message in the linked state and sets the run state. -/
theorem trapHaltHalts : Obligations.TrapHaltHalts := by
  unfold Obligations.TrapHaltHalts
  intro v s hservice
  obtain ⟨hmem, hkeyboard, ⟨_, hcfg, hhost⟩, hin, hout, hservices⟩ := s.trapEntry_outsideSame
  exact ⟨_, exec_trap_halt hservice, rfl, s.trapEntry_reg_seven, s.trapEntry_regsSame, s.trapEntry_pc, s.trapEntry_cond,
    hmem, hkeyboard, hcfg, hhost, hin, hservices, congrArg (· ++ _) hout⟩

/-! ### TRAP to PUTS or PUTSP (R90) -/

/-- What a string service writes for one word: the low half, and PUTSP the high half after it where it is not zero. -/
def stringEvents (sv : Service) (w : Word) : List ConsoleEvent :=
  if sv = .putsp ∧ w.extractLsb' 8 8 ≠ 0#8 then [.char (w.extractLsb' 0 8), .char (w.extractLsb' 8 8)]
  else [.char (w.extractLsb' 0 8)]

theorem stringEvents_puts : stringEvents .puts = putsWord := by
  funext w
  exact if_neg fun h => absurd h.1 (by decide)

theorem stringEvents_putsp : stringEvents .putsp = putspWord := by
  funext w
  by_cases hhigh : w.extractLsb' 8 8 = 0#8
  · rw [stringEvents, if_neg fun h => h.2 hhigh]
    exact (if_pos hhigh).symm
  · rw [stringEvents, if_pos ⟨rfl, hhigh⟩]
    exact (if_neg hhigh).symm

theorem runService_string {sv : Service} (h : sv = .puts ∨ sv = .putsp) (v : Word) (s : State) :
    runService sv v s = serviceString (stringEvents sv) s := by
  obtain rfl | rfl := h
  · rw [stringEvents_puts]; rfl
  · rw [stringEvents_putsp]; rfl

/-- The link write moves no string: it writes neither R0 nor memory. -/
theorem State.trapEntry_string {s : State} {n : Nat} (hn : n < 65536)
    (hne : ∀ j < n, s.peek (s.reg 0#3 + BitVec.ofNat 16 j) ≠ 0x0000#16)
    (hz : s.peek (s.reg 0#3 + BitVec.ofNat 16 n) = 0x0000#16) :
    s.trapEntry.string = some ((List.range n).map fun j => s.peek (s.reg 0#3 + BitVec.ofNat 16 j)) := by
  simp only [← State.trapEntry_peek s] at hne hz ⊢
  rw [State.string, State.trapEntry_reg_zero]
  exact stringAt_eq s.trapEntry n 65536 (s.reg 0#3) hn hne hz

theorem exec_trap_string {v : Word} {s : State} {ws : List Word} (hservice : s.service v = .puts ∨ s.service v = .putsp)
    (hstring : s.trapEntry.string = some ws) :
    exec (.trap v) s = .next (s.trapEntry.print (ws.flatMap (stringEvents (s.service v)))) := by
  rw [exec_trap, runService_string hservice, serviceString, hstring]; rfl

/-- Settles O37: the string is the `n` words before the first 0x0000, each written as its service says. -/
theorem trapStringServices : Obligations.TrapStringServices := by
  unfold Obligations.TrapStringServices
  intro v s n hservice hn hne hz
  have hexec := exec_trap_string hservice (State.trapEntry_string hn hne hz)
  rw [List.flatMap_map] at hexec
  obtain ⟨t, ht, hlink, hregs, hpc, hcond, hmem, hkeyboard, hengine, hin, hout, hservices⟩ :=
    printed_and_frame_of_exec hexec
  exact ⟨t, ht, hlink, hregs, hpc, hcond, hmem, hkeyboard, hengine, hin, hservices, hout⟩

/-! ### R90's contract -/

/-- COND after a TRAP is as before, R0's flag, or what an external service whose row allows it has written. -/
theorem exec_trap_cond_cases {v : Word} {s t : State} (h : exec (.trap v) s = .next t) :
    t.cond = s.cond ∨ ((s.service v = .getc ∨ s.service v = .inp) ∧ t.cond = flagFor (t.reg 0#3)) ∨
      ∃ ws, s.service v = .external ws true := by
  have hflag (u : State) (k : Word) : (u.writeResult 0#3 k).cond = flagFor ((u.writeResult 0#3 k).reg 0#3) := by
    obtain ⟨hresult, hcond, _⟩ := u.writeResult_resultIn 0#3 k
    rw [hresult, hcond]
  obtain ⟨k, hgetc, _, rfl⟩ | ⟨k, hin, _, rfl⟩ | ⟨es, _, rfl⟩ | ⟨_, rfl⟩ | ⟨_, rfl⟩ |
    ⟨ws, wc, hexternal, _, hreply⟩ := exec_trap_cases h
  · exact .inr (.inl ⟨.inl hgetc, hflag _ k⟩)
  · exact .inr (.inl ⟨.inr hin, hflag _ k⟩)
  · exact .inl s.trapEntry_cond
  · exact .inl s.trapEntry_cond
  · exact .inl s.trapEntry_cond
  · cases wc with
    | true => exact .inr (.inr ⟨ws, hexternal⟩)
    | false => obtain ⟨_, rfl⟩ | ⟨_, rfl⟩ := hreply <;> exact .inl (by simp)

/-- A service that keeps the contract from the linked state keeps the state before the link but for registers, COND and
the run state. -/
theorem KeepsContract.of_trapEntry {s u : State} (h : KeepsContract s.trapEntry u) :
    MemSame s u [] ∧ u.pc = s.pc ∧ u.keyboard = s.keyboard ∧ u.cfg = s.cfg ∧ u.host = s.host := by
  obtain ⟨hmem, hpc, _, hcfg, hkeyboard, hhost, _⟩ := h
  rw [State.trapEntry_mem] at hmem
  exact ⟨fun a _ => by rw [State.peek, hmem, State.peek], hpc.trans s.trapEntry_pc,
    hkeyboard.trans s.trapEntry_keyboard, hcfg.trans s.trapEntry_cfg, hhost.trans s.trapEntry_host⟩

theorem execUnder_trap_frame {service : TrapService} (hcontract : ServiceContract service) {v : Word} {s t : State}
    (h : execUnder service (.trap v) s = .next t) :
    MemSame s t [] ∧ t.pc = s.pc ∧ t.keyboard = s.keyboard ∧ t.cfg = s.cfg ∧ t.host = s.host := by
  obtain hresume | ⟨u, hhalt, rfl⟩ := ServiceOutcome.complete_eq_next h
  · have hkeeps : KeepsContract s.trapEntry t := hcontract v _ _ (.inl hresume)
    exact hkeeps.of_trapEntry
  · have hkeeps : KeepsContract s.trapEntry u := hcontract v _ _ (.inr hhalt)
    exact hkeeps.of_trapEntry

/-- Settles O39: the frame is the contract's, which the machine's own services keep. -/
theorem trapKeepsContract : Obligations.TrapKeepsContract := by
  unfold Obligations.TrapKeepsContract
  refine ⟨fun v s t h => ?_, tableService_contract, fun service hcontract v s t => execUnder_trap_frame hcontract⟩
  have hunder : execUnder tableService (.trap v) s = .next t := (execUnder_table _ s).trans h
  obtain ⟨hmem, hpc, hkeyboard, hcfg, hhost⟩ := execUnder_trap_frame tableService_contract hunder
  exact ⟨hmem, hpc, exec_trap_regsSame h, hkeyboard, hcfg, hhost, exec_trap_cond_cases h⟩

/-! ### RTI and RES (R91, R92) -/

theorem put_zero {n : Nat} (x : BitVec n) : put x 0 = x.setWidth 16 := BitVec.shiftLeft_zero _

theorem encode_rti (x : BitVec 12) : encode (.rti x) = 0x8000#16 ||| x.setWidth 16 := by
  rw [encode, put_zero]; rfl

theorem encode_res (x : BitVec 12) : encode (.res x) = 0xD000#16 ||| x.setWidth 16 := by
  rw [encode, put_zero]; rfl

/-- Settles O40: both opcodes do what the policy says with their own word. -/
theorem reservedOpcodesFollowPolicy : Obligations.ReservedOpcodesFollowPolicy := by
  unfold Obligations.ReservedOpcodesFollowPolicy
  refine ⟨fun w => ⟨fun hop => (InRow.rti hop).decode_eq, fun hop => (InRow.res hop).decode_eq⟩,
    fun x s hinert => ?_, fun x s hfault => ?_⟩
  · rw [exec_rti, exec_res, State.reservedOpcode_inert hinert, State.reservedOpcode_inert hinert]
    exact ⟨rfl, rfl⟩
  · rw [exec_rti, exec_res, State.reservedOpcode_fault hfault, State.reservedOpcode_fault hfault, encode_rti, encode_res]
    exact ⟨rfl, rfl⟩

end Sys2Proof.Machine
end

section
/-! PROOFS of the family 60_exceptions: the host stop and the boundaries of a run (R96, R97), from reset too (R68), the
faulted state of the strict variant (R94), and which instruction has no next state (R89, R93). -/

namespace Sys2Proof.Machine

/-! ### The host stop (R96, R97) -/

/-- Settles O53: the stop is the whole step, and a halted state stays. -/
theorem hostStopHalts : Obligations.HostStopHalts := by
  unfold Obligations.HostStopHalts
  intro s hrun hstops
  have hstep : step s = .next s.hostStop := step_stop hrun hstops
  have hstopped : s.hostStop.run ≠ .running := by simp
  refine ⟨hstep, fun k => ?_⟩
  rw [run_step_next k hstep]
  exact stoppedStays s.hostStop k hstopped

/-! ### What an instruction does to the engine (R64, R94) -/

/-- RTI and RES (R57). -/
def Reserved (i : Instr) : Prop := (∃ x, i = .rti x) ∨ ∃ x, i = .res x

theorem InRow.opcode_of_reserved {w u : Word} {i : Instr} (h : InRow w i u) (hi : Reserved i) :
    field w 12 4 = 0x8#4 ∨ field w 12 4 = 0xD#4 := by
  obtain ⟨x, rfl⟩ | ⟨x, rfl⟩ := hi
  · cases h with
    | rti hop => exact .inl hop
  · cases h with
    | res hop => exact .inr hop

theorem engineSame_of_next {i : Instr} {s t u : State} (h : exec i s = .next t) (hexec : exec i s = .next u)
    (hsame : EngineSame s u) : EngineSame s t :=
  Host.Outcome.next.inj (hexec.symm.trans h) ▸ hsame

theorem State.loadInto_engineSame (s : State) (dr : RegIdx) (a : Word) : EngineSame s (s.loadInto dr a) :=
  ⟨s.loadInto_run dr a, s.loadInto_cfg dr a, s.loadInto_host dr a⟩

/-- Only TRAP and the reserved opcodes touch the engine. -/
theorem exec_engine_cases {i : Instr} {s t : State} (h : exec i s = .next t) :
    (∃ v, i = .trap v) ∨ (Reserved i ∧ ∃ w, t = s.reservedOpcode w) ∨ EngineSame s t := by
  have here : EngineSame s s := ⟨rfl, rfl, rfl⟩
  cases i with
  | addReg | addImm | andReg | andImm | notReg | lea | jmp | jsr | jsrr | st | str =>
    exact .inr (.inr (engineSame_of_next h rfl here))
  | br nzp off =>
    exact .inr (.inr (engineSame_of_next h (exec_br nzp off s) (by split <;> exact here)))
  | ld dr | ldr dr => exact .inr (.inr (engineSame_of_next h rfl (s.loadInto_engineSame dr _)))
  | ldi dr off =>
    refine .inr (.inr (engineSame_of_next h (exec_ldi dr off s) ?_))
    exact engineSame_memRead_iff.1 (State.loadInto_engineSame _ dr _)
  | sti sr off =>
    refine .inr (.inr (engineSame_of_next h (exec_sti sr off s) ?_))
    exact engineSame_memRead_iff.1 ⟨rfl, rfl, rfl⟩
  | rti x => exact .inr (.inl ⟨.inl ⟨x, rfl⟩, _, (Host.Outcome.next.inj h).symm⟩)
  | res x => exact .inr (.inl ⟨.inr ⟨x, rfl⟩, _, (Host.Outcome.next.inj h).symm⟩)
  | trap v => exact .inl ⟨v, rfl⟩

/-! ### The faulted state (R94) -/

theorem exec_trap_not_faulted {v p w : Word} {s t : State} (hrun : s.run = .running) (h : exec (.trap v) s = .next t) :
    t.run ≠ .faulted p w := by
  obtain ⟨k, _, _, rfl⟩ | ⟨k, _, _, rfl⟩ | ⟨es, _, rfl⟩ | ⟨_, rfl⟩ | ⟨_, rfl⟩ |
    ⟨ws, wc, _, _, ⟨_, rfl⟩ | ⟨_, rfl⟩⟩ := exec_trap_cases h
  all_goals simp [hrun]

theorem reserved_of_exec_faulted {i : Instr} {s t : State} {p w : Word} (hrun : s.run = .running)
    (h : exec i s = .next t) (ht : t.run = .faulted p w) : Reserved i := by
  obtain ⟨v, rfl⟩ | ⟨hreserved, _⟩ | ⟨hsame, _⟩ := exec_engine_cases h
  · exact absurd ht (exec_trap_not_faulted hrun h)
  · exact hreserved
  · simp [hsame, hrun] at ht

/-- A word whose instruction ends faulted is a reserved opcode's, under `fault`, and the state is the one of the
exception. -/
theorem raised_of_exec_faulted {s t : State} {p w word : Word} (hrun : s.run = .running)
    (h : exec (decode word) s = .next t) (ht : t.run = .faulted p w) :
    s.cfg.illegalPolicy = .fault ∧ (field word 12 4 = 0x8#4 ∨ field word 12 4 = 0xD#4) ∧
      t = s.raiseIllegalOpcode word := by
  have hop := (inRow_decode word).opcode_of_reserved (reserved_of_exec_faulted hrun h ht)
  rw [exec_reserved hop, Host.Outcome.next.injEq] at h
  obtain ⟨_, hidle⟩ | ⟨hfault, hraised⟩ := s.reservedOpcode_cases word
  · simp [← h, hidle, hrun] at ht
  · exact ⟨hfault, hop, h.symm.trans hraised⟩

/-- Settles O56: the step is no host stop, so its instruction is a reserved opcode that raises the exception. -/
theorem faultedOnlyByReservedOpcode : Obligations.FaultedOnlyByReservedOpcode := by
  unfold Obligations.FaultedOnlyByReservedOpcode
  intro s t p w hrun hstep ht
  obtain ⟨hstopped, _⟩ | ⟨_, _, rfl⟩ | ⟨_, _, hexec⟩ := step_cases hstep
  · exact absurd hrun hstopped
  · simp at ht
  · obtain ⟨hpolicy, hop, rfl⟩ := raised_of_exec_faulted (by simpa using hrun) hexec ht
    rw [State.raiseIllegalOpcode_run, RunState.faulted.injEq] at ht
    obtain ⟨rfl, rfl⟩ := ht
    have hword : s.passBoundary.fetch.1 = (s.memRead s.pc).1 := s.passBoundary_memRead_word s.pc
    exact ⟨by simpa using hpolicy, by simp, hword, by simp, hop, fun r _ => by simp, by simp⟩

/-! ### The boundaries of a run (R96) -/

theorem State.reservedOpcode_host (s : State) (w : Word) : (s.reservedOpcode w).host = s.host := by
  obtain ⟨_, e⟩ | ⟨_, e⟩ := s.reservedOpcode_cases w <;> simp [e]

/-- No instruction asks the host. -/
theorem exec_keeps_host {i : Instr} {s t : State} (h : exec i s = .next t) : t.host = s.host := by
  obtain ⟨v, rfl⟩ | ⟨_, w, rfl⟩ | ⟨_, _, hhost⟩ := exec_engine_cases h
  · obtain ⟨_, _, _, _, _, hhost, _⟩ := trapKeepsContract.1 v s t h
    exact hhost
  · exact s.reservedOpcode_host w
  · exact hhost

/-- A step that leaves the engine RUNNING has passed one boundary. -/
theorem step_to_running {s t : State} (h : step s = .next t) (ht : t.run = .running) : t.host = s.host.asked := by
  obtain ⟨hstopped, rfl⟩ | ⟨_, _, rfl⟩ | ⟨_, _, hexec⟩ := step_cases h
  · exact absurd ht hstopped
  · simp at ht
  · rw [exec_keeps_host hexec]
    simp

theorem run_succ_cases {k : Nat} {s t : State} (h : core.run (k + 1) s = .next t) :
    ∃ u, step s = .next u ∧ core.run k u = .next t := by
  cases hstep : step s with
  | next u => exact ⟨u, rfl, (run_step_next k hstep).symm.trans h⟩
  | fault r => exact nomatch (run_step_fault k hstep).symm.trans h
  | refused r => exact nomatch (run_step_refused k hstep).symm.trans h

/-- One more step goes on where the run stands. -/
theorem run_succ_of_run {n : Nat} {s t : State} (h : core.run n s = .next t) : core.run (n + 1) s = step t := by
  induction n generalizing s with
  | zero =>
    obtain rfl : s = t := Host.Outcome.next.inj h
    cases hstep : step s with
    | next u => exact run_step_next 0 hstep
    | fault r => exact run_step_fault 0 hstep
    | refused r => exact run_step_refused 0 hstep
  | succ n ih =>
    obtain ⟨u, hstep, hrest⟩ := run_succ_cases h
    rw [run_step_next (n + 1) hstep, ih hrest]

/-- A run that has stopped is not RUNNING any more. -/
theorem running_of_run_running {n : Nat} {s t : State} (h : core.run n s = .next t) (ht : t.run = .running) :
    s.run = .running := by
  by_contra hstopped
  obtain rfl : s = t := Host.Outcome.next.inj ((stoppedStays s n hstopped).symm.trans h)
  exact hstopped ht

/-- The host has been asked once a step, in a run that is still RUNNING. -/
theorem run_host {n : Nat} {s t : State} (h : core.run n s = .next t) (ht : t.run = .running) :
    t.host = s.host.askedTimes n := by
  induction n generalizing s with
  | zero =>
    obtain rfl : s = t := Host.Outcome.next.inj h
    rfl
  | succ n ih =>
    obtain ⟨u, hstep, hrest⟩ := run_succ_cases h
    rw [ih hrest, step_to_running hstep (running_of_run_running hrest ht), Channel.askedTimes]

theorem run_hostStops {n : Nat} {s t : State} (h : core.run n s = .next t) (ht : t.run = .running) :
    t.hostStops = (s.host.askedTimes n).answer Config.hostStops := by
  rw [State.hostStops, run_host h ht]

/-! ### The state after a boot (R106, R107) -/

theorem pokeAll_frame (s : State) (origin : Word) (words : List Word) :
    pokeAll s origin words = { s with mem := (pokeAll s origin words).mem } := by
  induction words generalizing s origin with
  | nil => rfl
  | cons w rest ih => exact ih (s.poke origin w) (origin + 1)

theorem loadImage_frame {s t : State} {image : List Word} (h : loadImage s image = some t) :
    t = { s with mem := t.mem } := by
  cases image with
  | nil => exact nomatch h
  | cons origin words =>
    obtain ⟨_, rfl⟩ : _ ∧ pokeAll s origin words = t := by simpa [loadImage] using h
    exact pokeAll_frame s origin words

theorem loadImages_frame {s t : State} {images : List (List Word)} (h : loadImages s images = some t) :
    t = { s with mem := t.mem } := by
  induction images generalizing s with
  | nil =>
    obtain rfl : s = t := Option.some.inj h
    rfl
  | cons image rest ih =>
    obtain ⟨u, himage, hrest⟩ := Option.bind_eq_some_iff.1 h
    rw [ih hrest, loadImage_frame himage]

theorem boot_host {cfg : Config} {images : List (List Word)} {s : State} (h : boot cfg images = some s) :
    s.host = Channel.fresh :=
  congrArg State.host (loadImages_frame h)

/-- Settles O54: `n` steps that leave the engine RUNNING have used up `n` of the host's answers, so the next boundary
meets the one after them. -/
theorem hostStopAtEveryBoundary : Obligations.HostStopAtEveryBoundary := by
  unfold Obligations.HostStopAtEveryBoundary
  refine ⟨fun n s t rest hanswers hn hrun => ?_, fun cfg images s t n hboot hn hrun => ?_⟩
  · have hstops : t.hostStops = true := by
      simp [run_hostStops hn hrun, Channel.askedTimes_eq, hanswers, Channel.answer]
    rw [run_succ_of_run hn]
    exact step_stop hrun hstops
  · have hfree : t.hostStops = Config.hostStops n := by
      simp [run_hostStops hn hrun, boot_host hboot, Channel.askedTimes_eq, Channel.fresh, Channel.answer]
    rw [run_succ_of_run hn, ← hfree]
    cases hstops : t.hostStops with
    | true => exact step_stop hrun hstops
    | false => exact step_running hrun hstops

/-! ### Which instruction has no next state (R89, R93) -/

theorem stringAt_eq_none {s : State} (h : ∀ a, s.peek a ≠ 0x0000#16) (a : Word) (fuel : Nat) :
    stringAt s a fuel = none := by
  induction fuel generalizing a with
  | zero => rfl
  | succ fuel ih => rw [stringAt, if_neg (h a), ih]; rfl

/-- The string has no end where no word of memory is 0x0000: the 65536 words from any address are all of memory. -/
theorem State.string_eq_none_iff (s : State) : s.string = none ↔ ∀ a, s.peek a ≠ 0x0000#16 := by
  refine ⟨fun h a => ?_, fun h => stringAt_eq_none h _ _⟩
  have hword := stringAt_none h (a - s.reg 0#3).toNat (a - s.reg 0#3).isLt
  rwa [BitVec.ofNat_toNat, BitVec.setWidth_eq, BitVec.add_comm, BitVec.sub_add_cancel] at hword

/-- The service has no outcome (R89). -/
def ServiceOutcome.Never (o : ServiceOutcome) : Prop := ∃ why, o = .never why

theorem ServiceOutcome.complete_of_never {o : ServiceOutcome} (h : o.Never) : ∃ f, o.complete = .fault f := by
  obtain ⟨why, rfl⟩ := h
  exact ⟨why, rfl⟩

theorem ServiceOutcome.complete_or_never (o : ServiceOutcome) : (∃ t, o.complete = .next t) ∨ o.Never := by
  cases o with
  | resume t => exact .inl ⟨t, rfl⟩
  | halt t => exact .inl ⟨t.halt, rfl⟩
  | never why => exact .inr ⟨why, rfl⟩

theorem serviceGetc_never_iff (s : State) : (serviceGetc s).Never ↔ s.charAnswer = none := by
  cases hchar : s.charAnswer <;> simp [serviceGetc, ServiceOutcome.Never, hchar]

theorem serviceIn_never_iff (s : State) : (serviceIn s).Never ↔ s.charAnswer = none := by
  cases hchar : s.charAnswer <;> simp [serviceIn, ServiceOutcome.Never, hchar]

theorem serviceString_never_iff (f : Word → List ConsoleEvent) (s : State) :
    (serviceString f s).Never ↔ ∀ a, s.peek a ≠ 0x0000#16 := by
  rw [← State.string_eq_none_iff]
  cases hstring : s.string <;> simp [serviceString, ServiceOutcome.Never, hstring]

theorem State.charsCome_eq_false_iff (s : State) (n : Nat) :
    s.charsCome n = false ↔ ∃ k < n, s.charAhead k = none := by
  simp [← Bool.not_eq_true, s.charsCome_iff]

theorem serviceExternal_never_iff (ws : List RegIdx) (wc : Bool) (v : Word) (s : State) :
    (serviceExternal ws wc v s).Never ↔
      (∃ k < (s.serviceReply v).reads, s.charAhead k = none) ∨ (s.serviceReply v).outcome = .never := by
  rw [← State.charsCome_eq_false_iff]
  cases hcome : s.charsCome (s.serviceReply v).reads with
  | false => simp [serviceExternal, ServiceOutcome.Never, hcome]
  | true =>
    cases houtcome : (s.serviceReply v).outcome <;>
      simp [serviceExternal, ServiceOutcome.Never, hcome, houtcome]

theorem State.trapEntry_charAhead (s : State) (k : Nat) : s.trapEntry.charAhead k = s.charAhead k := by
  rw [State.charAhead, State.trapEntry_consoleIn, State.charAhead]

/-- `TrapNeverReturns` names exactly the services without an outcome, called in the linked state. -/
theorem runService_never_iff (v : Word) (s : State) :
    (runService (s.service v) v s.trapEntry).Never ↔ TrapNeverReturns s v := by
  unfold TrapNeverReturns
  cases hservice : s.service v with
  | getc => simp [runService, serviceGetc_never_iff]
  | inp => simp [runService, serviceIn_never_iff]
  | puts | putsp => simp [runService, serviceString_never_iff]
  | out | halt | unknown => simp [runService, serviceOut, serviceHalt, ServiceOutcome.Never]
  | external ws wc =>
    simp [runService, serviceExternal_never_iff, State.trapEntry_charAhead, State.trapReply]

/-- Settles O41: every instruction but TRAP has an equation, and a TRAP completes unless its service never returns. -/
theorem everyInstructionCompletes : Obligations.EveryInstructionCompletes := by
  unfold Obligations.EveryInstructionCompletes
  refine ⟨fun i s => ?_, fun v s hnever => ?_⟩
  · by_cases hi : ∃ v, i = .trap v
    · obtain ⟨v, rfl⟩ := hi
      rw [exec_trap]
      obtain hnext | hnever := (runService (s.service v) v s.trapEntry).complete_or_never
      · exact .inl hnext
      · exact .inr ⟨v, rfl, (runService_never_iff v s).1 hnever⟩
    · obtain ⟨t, hnext, _⟩ := exec_effect i s fun v e => hi ⟨v, e⟩
      exact .inl ⟨t, hnext⟩
  · rw [exec_trap]
    exact ServiceOutcome.complete_of_never ((runService_never_iff v s).2 hnever)

end Sys2Proof.Machine
end

section
/-! PROOFS of the family 70_reset_and_hazards: what loading an image leaves in memory (R107), the state after a boot
(R106), and the BR that falls through (R109). -/

namespace Sys2Proof.Machine

/-! ### Loading an image (R107) -/

/-- At displacement `k` from the origin stands the `k`-th word; where there is none, what stood there before. No more
words than memory has, so none is overwritten. -/
theorem pokeAll_peek (s : State) (origin a : Word) (words : List Word) (hlen : words.length ≤ 65536) :
    (pokeAll s origin words).peek a = words[(a - origin).toNat]?.getD (s.peek a) := by
  induction words generalizing s origin with
  | nil => rfl
  | cons w rest ih =>
    rw [List.length_cons] at hlen
    rw [pokeAll, ih _ _ (by omega), State.poke_peek]
    by_cases ha : a = origin
    · -- The origin's own displacement from the next address is 0xFFFF, past the rest of the image.
      have hback : (a - (origin + 1)).toNat = 65535 := by subst ha; bv_omega
      have hpast : rest[65535]? = none := List.getElem?_eq_none (by omega)
      rw [hback, hpast, ha]
      simp
    · have hnext : (a - origin).toNat = (a - (origin + 1)).toNat + 1 := by bv_omega
      rw [if_neg ha, hnext, List.getElem?_cons_succ]

theorem pokeAll_peek_word (s : State) (origin : Word) {words : List Word} {k : Nat} {w : Word}
    (hlen : words.length ≤ 65536) (hw : words[k]? = some w) :
    (pokeAll s origin words).peek (origin + BitVec.ofNat 16 k) = w := by
  have hk : k < words.length := (List.getElem?_eq_some_iff.1 hw).1
  have hdisp : (origin + BitVec.ofNat 16 k - origin).toNat = k := by bv_omega
  rw [pokeAll_peek s origin _ words hlen, hdisp, hw, Option.getD_some]

theorem pokeAll_peek_outside (s : State) {origin a : Word} {words : List Word}
    (hfit : origin.toNat + words.length ≤ 65536)
    (ha : a.toNat < origin.toNat ∨ origin.toNat + words.length ≤ a.toNat) :
    (pokeAll s origin words).peek a = s.peek a := by
  have hpast : words.length ≤ (a - origin).toNat := by bv_omega
  rw [pokeAll_peek s origin a words (by omega), List.getElem?_eq_none hpast, Option.getD_none]

/-- Settles O10: each address of memory has one displacement from the origin, and the image's addresses are those whose
displacement is below its length. -/
theorem imageLoadsAtOrigin : Obligations.ImageLoadsAtOrigin := by
  unfold Obligations.ImageLoadsAtOrigin
  refine ⟨fun s origin words hfit => ?fits, fun s origin words hlong => ?tooLong, fun s => rfl⟩
  case fits =>
    have hlen : words.length ≤ 65536 := by omega
    exact ⟨pokeAll s origin words, if_pos hfit, fun k w hw => pokeAll_peek_word s origin hlen hw,
      fun a ha => pokeAll_peek_outside s hfit ha, pokeAll_frame s origin words⟩
  case tooLong =>
    exact if_neg (by omega)

/-! ### The state after a boot (R106) -/

theorem pokeAll_wf {s : State} (origin : Word) (words : List Word) (h : Memory.wf s.mem = true) :
    Memory.wf (pokeAll s origin words).mem = true := by
  induction words generalizing s origin with
  | nil => exact h
  | cons w rest ih => exact ih (origin + 1) (State.wf_poke origin w h)

theorem loadImage_wf {s t : State} {image : List Word} (hload : loadImage s image = some t)
    (h : Memory.wf s.mem = true) : Memory.wf t.mem = true := by
  cases image with
  | nil => exact nomatch hload
  | cons origin words =>
    obtain ⟨_, rfl⟩ : _ ∧ pokeAll s origin words = t := by simpa [loadImage] using hload
    exact pokeAll_wf origin words h

theorem loadImages_wf {s t : State} {images : List (List Word)} (hload : loadImages s images = some t)
    (h : Memory.wf s.mem = true) : Memory.wf t.mem = true := by
  induction images generalizing s with
  | nil =>
    obtain rfl : s = t := Option.some.inj hload
    exact h
  | cons image rest ih =>
    obtain ⟨u, himage, hrest⟩ := Option.bind_eq_some_iff.1 hload
    exact ih hrest (loadImage_wf himage h)

/-- Settles O11: loading leaves every field of the reset state but memory, and memory in canonical form. -/
theorem bootState : Obligations.BootState := by
  unfold Obligations.BootState
  intro cfg images t hboot
  have hwf : Memory.wf t.mem = true := loadImages_wf hboot (State.wf_resetWith cfg)
  rw [loadImages_frame hboot]
  exact ⟨State.resetWith_reg cfg, rfl, rfl, rfl, rfl, hwf, rfl, rfl, rfl, rfl, rfl⟩

/-! ### A BR that falls through (R109) -/

theorem exec_br_fallsThrough {nzp : BitVec 3} {s : State} (off : Word)
    (h : nzp.setWidth 16 &&& s.cond = 0x0000#16) : exec (.br nzp off) s = .next s := by
  have hnot : ¬ s.branchTaken nzp = true := by simp [State.branchTaken_iff, h]
  rw [exec_br, if_neg hnot]

/-- Settles O22: without a flag in COND, or with an empty mask, the mask does not meet COND. -/
theorem branchFallsThrough : Obligations.BranchFallsThrough := by
  unfold Obligations.BranchFallsThrough
  refine ⟨fun nzp off s hcond => ?noFlag, fun off s => ?emptyMask⟩
  case noFlag => exact exec_br_fallsThrough off (by rw [hcond, BitVec.and_zero])
  case emptyMask => exact exec_br_fallsThrough off (by rw [BitVec.setWidth_zero, BitVec.zero_and])

end Sys2Proof.Machine
end
